-- ==== Sys2Proof/Word.lean ====
section
/-! DEFINITION. The word and byte types of the engine (00_scope.md R4, R6; 40_word_functions.md R80). -/

namespace Sys2Proof

/-- An unsigned 32-bit word (R80). Its `+` is addition modulo 2^32, the carry dropped (R80, R90). -/
abbrev Word := BitVec 32

/-- A byte, 0..255 (41_preprocessor.md R100). -/
abbrev Byte := BitVec 8

end Sys2Proof
end

