-- ==== Sys2Proof/Syntax.lean ====
section
/-! DEFINITION. The engine's instructions: seven host commands and six sequencer micro-operations, one constructor per
row of spec/opcode_table.json (30_encoding.md R63, R66). -/

namespace Sys2Proof

/-- One row of the opcode table with its operand. A command carries the operand of its `arg` field (R61, R62), a
micro-operation the step index `T` of its selection word (R66). -/
inductive Instr where
  /-- INIT (44_driver_and_commands.md R151), format Z. -/
  | init
  /-- PUSHB d (41_preprocessor.md R107), format D. -/
  | pushb (d : Byte)
  /-- FINAL (41_preprocessor.md R108), format Z. -/
  | final
  /-- RDW i (44_driver_and_commands.md R154), format X3. -/
  | rdw (i : BitVec 3)
  /-- RDB j (44_driver_and_commands.md R155), format X5. -/
  | rdb (j : BitVec 5)
  /-- STAT (44_driver_and_commands.md R152), format Z. -/
  | stat
  /-- SRST (44_driver_and_commands.md R153), format Z. -/
  | srst
  /-- PADB (41_preprocessor.md R109), phase PAD. -/
  | padb (t : BitVec 6)
  /-- WLD (42_scheduler.md R121), phase WLOAD. -/
  | wld (t : BitVec 6)
  /-- WEX (42_scheduler.md R122), phase WEXP. -/
  | wex (t : BitVec 6)
  /-- RLD (43_compressor.md R132), phase RLOAD. -/
  | rld (t : BitVec 6)
  /-- RND (43_compressor.md R133), phase ROUND. -/
  | rnd (t : BitVec 6)
  /-- FEED (43_compressor.md R134), phase FEED. -/
  | feed (t : BitVec 6)
  deriving DecidableEq, Repr

namespace Instr

/-- Is the instruction a host command (R63), not a micro-operation (R66)? -/
def isCommand : Instr → Bool
  | init | pushb _ | final | rdw _ | rdb _ | stat | srst => true
  | padb _ | wld _ | wex _ | rld _ | rnd _ | feed _ => false

/-- The row's mnemonic in spec/opcode_table.json. -/
def mnemonic : Instr → String
  | init => "INIT"
  | pushb _ => "PUSHB"
  | final => "FINAL"
  | rdw _ => "RDW"
  | rdb _ => "RDB"
  | stat => "STAT"
  | srst => "SRST"
  | padb _ => "PADB"
  | wld _ => "WLD"
  | wex _ => "WEX"
  | rld _ => "RLD"
  | rnd _ => "RND"
  | feed _ => "FEED"

end Instr

end Sys2Proof
end

