-- ==== Sys2Proof/WellFormed.lean ====
section
/-! DEFINITION. Well-formed instructions: the step indices that occur for each micro-operation (30_encoding.md R66,
column "`T` values that occur"). A command's operand field is exactly as wide as its range (R62), so every command is
well-formed. -/

namespace Sys2Proof

/-- The step index lies in the range R66 gives the micro-operation. Outside it the sequencer has no step
(93_implementation_defined.md U10; log 5). -/
def Instr.wellFormed : Instr → Bool
  | .init | .pushb _ | .final | .rdw _ | .rdb _ | .stat | .srst => true
  | .padb t => t = 0
  | .wld t => t.toNat < 16
  | .wex t => 16 ≤ t.toNat
  | .rld t => t = 0
  | .rnd _ => true
  | .feed t => t = 0

end Sys2Proof
end

