-- ==== Sys2Proof/Decode.lean ====
section
/-! DEFINITION. The command decoder, the micro-operation selection, the encoder and the opcode table (30_encoding.md
R60 to R66; spec/opcode_table.json). -/

namespace Sys2Proof

/-- Why a word is no instruction. -/
inductive Reject where
  /-- `op` is one of 0, 7..14 (R64, first item). -/
  | reservedOperation
  /-- `mbz`, bits 11:8 of a command word, is not zero (R64, second item). -/
  | mustBeZeroField
  /-- Must-be-zero bits of `arg` are not zero (R64, third item). -/
  | argumentBits
  /-- The selection word's phase runs no micro-operation: 0, 1, 8, 15 are ready, 9..14 are no phase (R66). -/
  | noMicroOperation
  deriving DecidableEq, Repr

/-- A command of format Z: all of `arg` is zero (R61). -/
def decodeZ (arg : BitVec 8) (i : Instr) : Except Reject Instr :=
  if arg = 0 then .ok i else .error .argumentBits

/-- Format X3: `arg[2:0]` is a word index, `arg[7:3]` is zero (R61). -/
def decodeX3 (arg : BitVec 8) (mk : BitVec 3 → Instr) : Except Reject Instr :=
  if arg.extractLsb' 3 5 = 0 then .ok (mk (arg.extractLsb' 0 3)) else .error .argumentBits

/-- Format X5: `arg[4:0]` is a byte index, `arg[7:5]` is zero (R61). -/
def decodeX5 (arg : BitVec 8) (mk : BitVec 5 → Instr) : Except Reject Instr :=
  if arg.extractLsb' 5 3 = 0 then .ok (mk (arg.extractLsb' 0 5)) else .error .argumentBits

/-- The operations of R63, by `op`. -/
def decodeOperation (op : Nat) (arg : BitVec 8) : Except Reject Instr :=
  match op with
  | 1 => decodeZ arg .init
  | 2 => .ok (.pushb arg)
  | 3 => decodeZ arg .final
  | 4 => decodeX3 arg .rdw
  | 5 => decodeX5 arg .rdb
  | 6 => decodeZ arg .stat
  | 15 => decodeZ arg .srst
  | _ => .error .reservedOperation

/-- `decode(c)` of R63: the command a 16-bit word is, or the reason it is illegal (R64). -/
def decodeCommand (c : BitVec 16) : Except Reject Instr :=
  if c.extractLsb' 8 4 = 0 then decodeOperation (c.extractLsb' 12 4).toNat (c.extractLsb' 0 8)
  else .error .mustBeZeroField

/-- The micro-operation a 10-bit selection word `PH ‖ T` selects: by `PH` alone, with `T` its operand (R66). -/
def decodeMicroOp (s : BitVec 10) : Except Reject Instr :=
  match (s.extractLsb' 6 4).toNat with
  | 2 => .ok (.padb (s.extractLsb' 0 6))
  | 3 => .ok (.wld (s.extractLsb' 0 6))
  | 4 => .ok (.wex (s.extractLsb' 0 6))
  | 5 => .ok (.rld (s.extractLsb' 0 6))
  | 6 => .ok (.rnd (s.extractLsb' 0 6))
  | 7 => .ok (.feed (s.extractLsb' 0 6))
  | _ => .error .noMicroOperation

/-- The engine's two instruction words: the host's command word (R60) and the sequencer's selection word (R66). -/
inductive CodeWord where
  | command (c : BitVec 16)
  | select (s : BitVec 10)
  deriving DecidableEq, Repr

/-- The instruction of a word of either kind. -/
def decode : CodeWord → Except Reject Instr
  | .command c => decodeCommand c
  | .select s => decodeMicroOp s

/-- The word of an instruction, from the "Encoding" column of R63 and the "Pattern" column of R66. -/
def encode : Instr → CodeWord
  | .init => .command 0b0001000000000000#16
  | .pushb d => .command (0b00100000#8 ++ d)
  | .final => .command 0b0011000000000000#16
  | .rdw i => .command (0b0100000000000#13 ++ i)
  | .rdb j => .command (0b01010000000#11 ++ j)
  | .stat => .command 0b0110000000000000#16
  | .srst => .command 0b1111000000000000#16
  | .padb t => .select (0b0010#4 ++ t)
  | .wld t => .select (0b0011#4 ++ t)
  | .wex t => .select (0b0100#4 ++ t)
  | .rld t => .select (0b0101#4 ++ t)
  | .rnd t => .select (0b0110#4 ++ t)
  | .feed t => .select (0b0111#4 ++ t)

/-- The code words of a command sequence, for the command port: a micro-operation has no command word (R66: it "cannot
be issued" by the host). -/
def commandWord? (i : Instr) : Option (BitVec 16) :=
  match encode i with
  | .command c => some c
  | .select _ => none

/-- A row of the opcode table: a word `w` of `width` bits is the instruction exactly when `w AND mask = pattern` (R63,
R66; `pattern` is the table's "match"). -/
structure TableRow where
  mnemonic : String
  width : Nat
  mask : Nat
  pattern : Nat
  deriving DecidableEq, Repr

/-- The thirteen rows of spec/opcode_table.json. -/
def opcodeTable : List TableRow :=
  [⟨"INIT", 16, 0xFFFF, 0x1000⟩, ⟨"PUSHB", 16, 0xFF00, 0x2000⟩, ⟨"FINAL", 16, 0xFFFF, 0x3000⟩,
   ⟨"RDW", 16, 0xFFF8, 0x4000⟩, ⟨"RDB", 16, 0xFFE0, 0x5000⟩, ⟨"STAT", 16, 0xFFFF, 0x6000⟩,
   ⟨"SRST", 16, 0xFFFF, 0xF000⟩] ++
  [⟨"PADB", 10, 0x3C0, 0x080⟩, ⟨"WLD", 10, 0x3C0, 0x0C0⟩, ⟨"WEX", 10, 0x3C0, 0x100⟩,
   ⟨"RLD", 10, 0x3C0, 0x140⟩, ⟨"RND", 10, 0x3C0, 0x180⟩, ⟨"FEED", 10, 0x3C0, 0x1C0⟩]

/-- Does the row's mask and pattern select the word? -/
def TableRow.selects (row : TableRow) (width w : Nat) : Bool :=
  row.width == width && (w &&& row.mask) == row.pattern

/-- A word as spec/opcode_table.json numbers it, told apart by its value: every selection word is below 2^10 and no
command word below 2^12 is legal (R63, R64), so the two kinds never overlap (log 11). -/
def codeWordOf (w : Nat) : CodeWord :=
  if w < 2 ^ 10 then .select (BitVec.ofNat 10 w) else .command (BitVec.ofNat 16 w)

/-- The instruction the decoder reads from a table word of `nbits` bits (16 for commands; the 10 bits of a selection
word count as 16 in whole bytes). -/
def decodeTableWord (nbits w : Nat) : Option Instr :=
  if w < 2 ^ nbits ∧ w < 2 ^ 16 then
    match decode (codeWordOf w) with
    | .ok i => some i
    | .error _ => none
  else none

end Sys2Proof
end

