-- ==== Sys2Proof/Machine/State.lean ====
section
/-! DEFINITION. The engine's state as plain data (10_state.md), the state after reset (R26), and the ways a step of the
model can stop. -/

namespace Sys2Proof.Machine

/-- The phase `PH` (10_state.md R18). Codes 9 to 14 have no name here, as R18 asks (log 14). -/
inductive Phase where
  | idle | absorb | pad | wload | wexp | rload | round | feed | done | fault
  deriving DecidableEq, Repr

/-- The padding progress `PADST` (10_state.md R19). -/
inductive PadState where
  | none | first | more | last
  deriving DecidableEq, Repr

/-- The fault code `ECODE` (10_state.md R20). -/
inductive ErrorCode where
  | enone | eill | eseq | elen
  deriving DecidableEq, Repr

/-- What the outside does at one step (44_driver_and_commands.md R150; 70_reset_and_hazards.md R200). DESIGN CHOICE
(log 2, log 7). -/
inductive HostEvent where
  /-- The host presents no command at this step. -/
  | idle
  /-- The host presents a command word; it stays presented until the engine is ready and takes it. -/
  | command (c : BitVec 16)
  /-- The hardware reset input is asserted. -/
  | reset
  deriving DecidableEq, Repr

/-- The engine: the tuple of 10_state.md R10, and last three fields that are the model's own (log 1, 2, 3). -/
structure State where
  /-- Working registers (R11). -/
  r : Vector Word 8
  /-- Digest state register file (R12). -/
  H : Vector Word 8
  /-- Message schedule memory (R13). -/
  W : Vector Word 64
  /-- Block buffer (R14). -/
  B : Vector Byte 64
  /-- Block buffer fill count (R15). -/
  N : BitVec 6
  /-- Message bit-length counter (R16). -/
  LEN : BitVec 64
  /-- Phase, the first half of `SEQ` (R17, R18). -/
  PH : Phase
  /-- Step index, the second half of `SEQ` (R17). -/
  T : BitVec 6
  /-- Padding progress (R19). -/
  PADST : PadState
  /-- Fault code (R20). -/
  ECODE : ErrorCode
  /-- MODEL: the host's events still to come, oldest first; when none is left the host stays silent (log 2). -/
  pending : List HostEvent
  /-- MODEL: the response words the host has received, oldest first (R69; log 3). -/
  responses : List Word
  /-- MODEL: how many hardware resets there were since power-on; it picks the free data values (log 1). -/
  resets : Nat
  deriving DecidableEq, Repr

/-- Why the model stops. All three stand for a sequencer with no step in states that no run reaches
(93_implementation_defined.md U10: "the sequencer has no step there (`stuck`)"); stopping there is safe (log 5). The
engine's own faults EILL, ESEQ and ELEN are no stops: they are states (60_exceptions.md R185). -/
inductive Fault where
  /-- Raised by PADB, WLD, WEX, RLD and FEED on a step index outside the range R66 gives them. Safe. -/
  | stepIndexOutOfRange
  /-- Raised by PADB when PADST is NONE or LAST (R109 has no such case). Safe. -/
  | padbWithoutPadding
  /-- Raised by FEED when PADST is FIRST (R134 has no such case). Safe. -/
  | feedBeforePadding
  deriving DecidableEq, Repr

/-- Why an instruction has no meaning. -/
inductive Refusal where
  /-- An instruction of the opcode table without a meaning in the model; raised by no arm of `exec`. Safe. -/
  | notModelled (mnemonic : String)
  deriving DecidableEq, Repr

namespace State

/-- The engine after power-on reset (R26, R200): the control state at its reset values, the data state at free values,
nothing pending and no response given. -/
def reset : State where
  r := Vector.ofFn fun i => Config.freeR 0 i.val
  H := Vector.ofFn fun i => Config.freeH 0 i.val
  W := Vector.ofFn fun i => Config.freeW 0 i.val
  B := Vector.ofFn fun i => Config.freeB 0 i.val
  N := 0
  LEN := 0
  PH := .idle
  T := 0
  PADST := .none
  ECODE := .enone
  pending := []
  responses := []
  resets := 0

end State

end Sys2Proof.Machine
end

