-- ==== Sys2Proof/Machine/Flags.lean ====
section
/-! DEFINITION. The four level outputs, the codes of the control fields and the STATUS view (10_state.md R18 to R22). -/

namespace Sys2Proof.Machine

/-- The 4-bit code of a phase (R18). -/
def Phase.code : Phase → BitVec 4
  | .idle => 0
  | .absorb => 1
  | .pad => 2
  | .wload => 3
  | .wexp => 4
  | .rload => 5
  | .round => 6
  | .feed => 7
  | .done => 8
  | .fault => 15

/-- `PH ∈ {IDLE, ABSORB, DONE, FAULT}` (R22). -/
def Phase.ready : Phase → Bool
  | .idle | .absorb | .done | .fault => true
  | .pad | .wload | .wexp | .rload | .round | .feed => false

/-- The 2-bit code of the padding progress (R19). -/
def PadState.code : PadState → BitVec 2
  | .none => 0
  | .first => 1
  | .more => 2
  | .last => 3

/-- The 2-bit fault code (R20). -/
def ErrorCode.code : ErrorCode → BitVec 2
  | .enone => 0
  | .eill => 1
  | .eseq => 2
  | .elen => 3

namespace State

/-- `ready`: a command transfer may happen (R22). -/
def ready (s : State) : Bool := s.PH.ready

/-- `busy`, the complement of `ready`: the sequencer has a step to run (R22). -/
def busy (s : State) : Bool := !s.ready

/-- `done`: the digest is valid and readable (R22). -/
def done (s : State) : Bool := s.PH == .done

/-- `err`: a fault was taken (R22). -/
def err (s : State) : Bool := s.PH == .fault

/-- `STATUS` (R21): `PH` in bits 3:0, `ECODE` in 5:4, `N` in 13:8, all other bits 0. -/
def status (s : State) : Word := 0#18 ++ s.N ++ 0#2 ++ s.ECODE.code ++ s.PH.code

/-- The selection word `s[9:0] = PH ‖ T` (30_encoding.md R66). -/
def selection (s : State) : BitVec 10 := s.PH.code ++ s.T

end State

end Sys2Proof.Machine
end

