-- ==== Sys2Proof/Machine/Operands.lean ====
section
/-! DEFINITION. The operand forms: the block buffer primitives (20_memory.md R42), the digest by word and by byte
(R40, R41), and the step index as an index. -/

namespace Sys2Proof.Machine

/-- A 6-bit count or step index as an index of a 64-element array. -/
def index64 (t : BitVec 6) : Fin 64 := ⟨t.toNat, t.isLt⟩

/-- `MemRead(B, a, n)`: `B[a] ‖ ... ‖ B[a+n-1]`, `B[a]` most significant (R42). No use leaves the buffer (R42). -/
def memRead (b : Vector Byte 64) (a : Nat) : (n : Nat) → a + n ≤ 64 → BitVec (8 * n)
  | 0, _ => 0#0
  | n + 1, h => memRead b a n (by omega) ++ b[a + n]

/-- `MemWrite(B, a, n, v)`: `B[a+i] <- v[8(n-i)-1 : 8(n-1-i)]` for `i = 0 .. n-1` (R42). -/
def memWrite (b : Vector Byte 64) (a n : Nat) (v : BitVec (8 * n)) : Vector Byte 64 :=
  Vector.ofFn fun k =>
    if a ≤ k.val ∧ k.val < a + n then v.extractLsb' (8 * (n - 1 - (k.val - a))) 8 else b[k]

/-- `for i = lo .. hi-1: B[i] <- 0x00` (the loops of 41_preprocessor.md R109); nothing when `hi ≤ lo`. -/
def zeroFill (b : Vector Byte 64) (lo hi : Nat) : Vector Byte 64 :=
  Vector.ofFn fun k => if lo ≤ k.val ∧ k.val < hi then 0x00 else b[k]

/-- `H[i]`, the digest file by word (R40; 30_encoding.md R62: every value of the field is in range). -/
def digestWord (h : Vector Word 8) (i : BitVec 3) : Word := h[i.toFin]

/-- Digest byte `j`, the digest file by byte: bits `31 - 8(j mod 4)` down to `24 - 8(j mod 4)` of `H[j div 4]` (R41,
item 4; 44_driver_and_commands.md R155: `j div 4 = j[4:2]`, `j mod 4 = j[1:0]`). -/
def digestByte (h : Vector Word 8) (j : BitVec 5) : Byte :=
  (digestWord h (j.extractLsb' 2 3)).extractLsb' (24 - 8 * (j.extractLsb' 0 2).toNat) 8

end Sys2Proof.Machine
end

