-- ==== Sys2Proof/Machine/Ops.lean ====
section
/-! DEFINITION. The shared operations of the rules: `SEQ <- (p, t)`, `respond`, `raise Fault`, the reset of the control
state, the hardware reset, and the frame every command runs in. -/

namespace Sys2Proof.Machine

/-- What a step answers in this model. -/
abbrev Result := Host.Outcome State Fault Refusal

/-- The data state after the `k`-th hardware reset is free (10_state.md R26; 70_reset_and_hazards.md R200; log 1). -/
def freeData (s : State) (k : Nat) : State :=
  { s with
    r := Vector.ofFn fun i => Config.freeR k i.val
    H := Vector.ofFn fun i => Config.freeH k i.val
    W := Vector.ofFn fun i => Config.freeW k i.val
    B := Vector.ofFn fun i => Config.freeB k i.val }

namespace State

/-- `SEQ <- (p, t)` (00_scope.md R7; 10_state.md R17). -/
def setSeq (s : State) (p : Phase) (t : BitVec 6) : State := { s with PH := p, T := t }

/-- `respond v`: the response word of this transfer (00_scope.md R7; 30_encoding.md R69). -/
def respond (s : State) (v : Word) : State := { s with responses := s.responses ++ [v] }

/-- `respond STATUS`, the status after the rule's writes (R7, R69). -/
def respondStatus (s : State) : State := s.respond s.status

/-- `raise Fault(code)`: `ECODE` and `PH` are written, `T` and everything else kept, STATUS is the response
(60_exceptions.md R185). -/
def raiseFault (s : State) (code : ErrorCode) : State :=
  ({ s with ECODE := code }.setSeq .fault s.T).respondStatus

/-- The control state at its reset values, the data state as it is (70_reset_and_hazards.md R200, R201). It is also the
one return from a fault (60_exceptions.md R187). -/
def controlReset (s : State) : State :=
  { s with PH := .idle, T := 0, N := 0, LEN := 0, PADST := .none, ECODE := .enone }

/-- The hardware reset (70_reset_and_hazards.md R200): control state reset, data state free. No response is given and
the host's later events stay as they are (log 7). -/
def hardwareReset (s : State) : State :=
  { freeData s.controlReset (s.resets + 1) with resets := s.resets + 1 }

/-- A command's transfer (44_driver_and_commands.md R150): held, with no transfer at all, while the engine is busy (log
4); `body` otherwise. -/
def onTransfer (s : State) (body : State → State) : State := if s.busy then s else body s

/-- A transfer whose command is discarded in phase FAULT: no state change, STATUS as response (60_exceptions.md R186). -/
def onCommand (s : State) (body : State → State) : State :=
  s.onTransfer fun s => if s.PH = .fault then s.respondStatus else body s

end State

end Sys2Proof.Machine
end

