-- ==== Sys2Proof/Machine/WordFunctions.lean ====
section
/-! DEFINITION. The word functions of the scheduler and the compressor (40_word_functions.md) and one compression round
(43_compressor.md R130). -/

namespace Sys2Proof.Machine

/-- `rotr(x, n)`, `1 ≤ n ≤ 31`: bit `i` of the result is bit `(i + n) mod 32` of `x` (R81). -/
def rotr (x : Word) (n : Nat) : Word := (x >>> n) ||| (x <<< (32 - n))

/-- `shr(x, n)`: logical shift right, `x div 2^n` (R82). -/
def shr (x : Word) (n : Nat) : Word := x >>> n

/-- `Ch(x, y, z)` (R84). -/
def ch (x y z : Word) : Word := (x &&& y) ^^^ (~~~x &&& z)

/-- `Maj(x, y, z)` (R85). -/
def maj (x y z : Word) : Word := (x &&& y) ^^^ (x &&& z) ^^^ (y &&& z)

/-- `BSIG0` (R86). -/
def bsig0 (x : Word) : Word := rotr x 2 ^^^ rotr x 13 ^^^ rotr x 22

/-- `BSIG1` (R87). -/
def bsig1 (x : Word) : Word := rotr x 6 ^^^ rotr x 11 ^^^ rotr x 25

/-- `SSIG0` (R88): the third term is a shift. -/
def ssig0 (x : Word) : Word := rotr x 7 ^^^ rotr x 18 ^^^ shr x 3

/-- `SSIG1` (R89): the third term is a shift. -/
def ssig1 (x : Word) : Word := rotr x 17 ^^^ rotr x 19 ^^^ shr x 10

/-- `T1` of a round (R130): a value inside the round, no register (10_state.md R24). -/
def roundT1 (x : Vector Word 8) (k w : Word) : Word := x[7] + bsig1 x[4] + ch x[4] x[5] x[6] + k + w

/-- `T2` of a round (R130). -/
def roundT2 (x : Vector Word 8) : Word := bsig0 x[0] + maj x[0] x[1] x[2]

/-- `round(x, k, w)` (R130; the explicit clause for index 4 overrides the shift, 90_conflicts.md C2). -/
def round (x : Vector Word 8) (k w : Word) : Vector Word 8 :=
  #v[roundT1 x k w + roundT2 x, x[0], x[1], x[2], x[3] + roundT1 x k w, x[4], x[5], x[6]]

/-- The word `WEX` computes from the four earlier ones, in the order of the recurrence (42_scheduler.md R120, R122). -/
def scheduleWord (w16 w15 w7 w2 : Word) : Word := w16 + ssig0 w15 + w7 + ssig1 w2

end Sys2Proof.Machine
end

