-- ==== Sys2Proof/Machine/Compressor.lean ====
section
/-! DEFINITION. The compression engine's micro-operations RLD, RND and FEED (43_compressor.md part 2). -/

namespace Sys2Proof.Machine

/-- `RLD` (R132): a copy of the running digest, not an alias. Step index 0 only (30_encoding.md R66; log 5). -/
def execRld (t : BitVec 6) (s : State) : Result :=
  if t ≠ 0 then .fault .stepIndexOutOfRange
  else .next ({ s with r := s.H }.setSeq .round 0)

/-- `RND` (R133): one round with `K[T]` and `W[T]`; every step index 0..63. -/
def execRnd (t : BitVec 6) (s : State) : Result :=
  let s' := { s with r := round s.r (Config.K (index64 t)) s.W[index64 t] }
  .next (if t = 63 then s'.setSeq .feed 0 else s'.setSeq .round (t + 1))

/-- `H[i] <- H[i] + r[i]` modulo 2^32, all eight together (R134). -/
def feedForward (s : State) : State := { s with H := Vector.ofFn fun i => s.H[i] + s.r[i] }

/-- `FEED` (R134). Step index 0 only (R66; log 5). -/
def execFeed (t : BitVec 6) (s : State) : Result :=
  if t ≠ 0 then .fault .stepIndexOutOfRange
  else match s.PADST with
    | .none => .next ((feedForward s).setSeq .absorb 0)
    | .more => .next ((feedForward s).setSeq .pad 0)
    | .last => .next ({ feedForward s with PADST := .none }.setSeq .done 0)
    | .first => .fault .feedBeforePadding

end Sys2Proof.Machine
end

