-- ==== Sys2Proof/Machine/Driver.lean ====
section
/-! DEFINITION. The commands that open a context, read the digest and the status, and reset: INIT, STAT, SRST, RDW, RDB
(44_driver_and_commands.md part 3). -/

namespace Sys2Proof.Machine

/-- The digest file at the initial hash values, `H[i] <- IV[i]` (R151). -/
def loadIV (s : State) : State := { s with H := Vector.ofFn Config.IV }

/-- `INIT` (R151): never ESEQ. -/
def execInit (s : State) : Result :=
  .next (s.onCommand fun s =>
    ({ loadIV s with N := 0, LEN := 0, PADST := .none }.setSeq .absorb 0).respondStatus)

/-- `STAT` (R152): in every ready phase, FAULT included; writes nothing. -/
def execStat (s : State) : Result := .next (s.onTransfer State.respondStatus)

/-- `SRST` (R153): in every ready phase, FAULT included; the data state stays as it is (70_reset_and_hazards.md R201). -/
def execSrst (s : State) : Result := .next (s.onTransfer fun s => s.controlReset.respondStatus)

/-- A digest read (R154, R155): ESEQ outside DONE, else the response and no write. -/
def readDigest (s : State) (v : Word) : State :=
  s.onCommand fun s => if s.PH ≠ .done then s.raiseFault .eseq else s.respond v

/-- `RDW i` (R154). -/
def execRdw (i : BitVec 3) (s : State) : Result := .next (readDigest s (digestWord s.H i))

/-- `RDB j` (R155): the byte zero-extended to 32 bits. -/
def execRdb (j : BitVec 5) (s : State) : Result :=
  .next (readDigest s ((digestByte s.H j).zeroExtend 32))

end Sys2Proof.Machine
end

