-- ==== Sys2Proof/Machine/Preprocessor.lean ====
section
/-! DEFINITION. Padding and block segmentation: PUSHB, FINAL and PADB (41_preprocessor.md part 2). -/

namespace Sys2Proof.Machine

/-- The largest `LEN`, `2^64 - 8`: a message of `2^61 - 1` bytes (10_state.md R16). -/
def lenMax : BitVec 64 := 0xFFFFFFFFFFFFFFF8

/-- The effect of an accepted PUSHB: `B[N] <- d`, `LEN <- LEN + 8`, and the next byte or the start of the block's
processing (R107). -/
def appendByte (s : State) (d : Byte) : State :=
  let t := { s with B := memWrite s.B s.N.toNat 1 d, LEN := s.LEN + 8 }
  if s.N = 63 then { t with N := 0 }.setSeq .wload 0 else { t with N := s.N + 1 }

/-- `PUSHB d` (R107): ESEQ is tested before ELEN (60_exceptions.md R184). -/
def execPushb (d : Byte) (s : State) : Result :=
  .next (s.onCommand fun s =>
    if s.PH ≠ .absorb then s.raiseFault .eseq
    else if s.LEN = lenMax then s.raiseFault .elen
    else (appendByte s d).respondStatus)

/-- `FINAL` (R108). -/
def execFinal (s : State) : Result :=
  .next (s.onCommand fun s =>
    if s.PH ≠ .absorb then s.raiseFault .eseq
    else ({ s with PADST := .first }.setSeq .pad 0).respondStatus)

/-- The first padding block (R109, case FIRST): the block that holds the last `N` message bytes. -/
def padFirst (s : State) : State :=
  let n := s.N.toNat
  let b := memWrite s.B n 1 (0x80 : Byte)
  if n ≤ 55 then { s with B := memWrite (zeroFill b (n + 1) 56) 56 8 s.LEN, PADST := .last }
  else { s with B := zeroFill b (n + 1) 64, PADST := .more }

/-- The extra padding block (R109, case MORE): zeros and the length. -/
def padMore (s : State) : State :=
  { s with B := memWrite (zeroFill s.B 0 56) 56 8 s.LEN, PADST := .last }

/-- The end of PADB (R109): `N <- 0`, `SEQ <- (WLOAD, 0)`. -/
def padDone (s : State) : State := { s with N := 0 }.setSeq .wload 0

/-- `PADB` (R109), step index 0 only (30_encoding.md R66; log 5). -/
def execPadb (t : BitVec 6) (s : State) : Result :=
  if t ≠ 0 then .fault .stepIndexOutOfRange
  else match s.PADST with
    | .first => .next (padDone (padFirst s))
    | .more => .next (padDone (padMore s))
    | .none => .fault .padbWithoutPadding
    | .last => .fault .padbWithoutPadding

end Sys2Proof.Machine
end

