-- ==== Sys2Proof/Machine/Scheduler.lean ====
section
/-! DEFINITION. The message scheduler's micro-operations WLD and WEX (42_scheduler.md part 2). -/

namespace Sys2Proof.Machine

/-- Write of one schedule word, `W[t] <- v`. -/
def writeW (s : State) (t : BitVec 6) (v : Word) : State := { s with W := s.W.set (index64 t) v }

/-- `WLD` (R121): `W[T] <- MemRead(B, 4T, 4)`; step index 0..15 (30_encoding.md R66; log 5). -/
def execWld (t : BitVec 6) (s : State) : Result :=
  if h : t.toNat < 16 then
    let s' := writeW s t (memRead s.B (4 * t.toNat) 4 (by omega))
    .next (if t = 15 then s'.setSeq .wexp 16 else s'.setSeq .wload (t + 1))
  else .fault .stepIndexOutOfRange

/-- `WEX` (R122): `W[T] <- W[T-16] + SSIG0(W[T-15]) + W[T-7] + SSIG1(W[T-2])`; step index 16..63 (R66; log 5). -/
def execWex (t : BitVec 6) (s : State) : Result :=
  if h : 16 ≤ t.toNat then
    have := t.isLt
    let s' := writeW s t
      (scheduleWord s.W[t.toNat - 16] s.W[t.toNat - 15] s.W[t.toNat - 7] s.W[t.toNat - 2])
    .next (if t = 63 then s'.setSeq .rload 0 else s'.setSeq .wexp (t + 1))
  else .fault .stepIndexOutOfRange

end Sys2Proof.Machine
end

