-- ==== Sys2Proof/Machine/Dispatch.lean ====
section
/-! DEFINITION. One arm per instruction. A micro-operation takes its step index from its operand; the phase that selects
it is checked by the sequencer's step (44_driver_and_commands.md R156), not here (log 13). -/

namespace Sys2Proof.Machine

def exec (i : Instr) (s : State) : Host.Outcome State Fault Refusal :=
  match i with
  | .init => Sys2Proof.Machine.execInit s
  | .pushb d => Sys2Proof.Machine.execPushb d s
  | .final => Sys2Proof.Machine.execFinal s
  | .rdw k => Sys2Proof.Machine.execRdw k s
  | .rdb j => Sys2Proof.Machine.execRdb j s
  | .stat => Sys2Proof.Machine.execStat s
  | .srst => Sys2Proof.Machine.execSrst s
  | .padb t => Sys2Proof.Machine.execPadb t s
  | .wld t => Sys2Proof.Machine.execWld t s
  | .wex t => Sys2Proof.Machine.execWex t s
  | .rld t => Sys2Proof.Machine.execRld t s
  | .rnd t => Sys2Proof.Machine.execRnd t s
  | .feed t => Sys2Proof.Machine.execFeed t s

end Sys2Proof.Machine
end

