-- ==== Sys2Proof/Machine/Agents.lean ====
section
/-! DEFINITION. The steps of the two agents and of the reset input (44_driver_and_commands.md part 2;
70_reset_and_hazards.md R200), and how a word is put where the next step takes it from. -/

namespace Sys2Proof.Machine

/-- An illegal word (60_exceptions.md R181): EILL in a ready phase other than FAULT, discarded in FAULT (R186). -/
def illegalWord (s : State) : State := s.onCommand fun s => s.raiseFault .eill

/-- `transfer(c)` (R150): decode, then the rule of the decoded command, or EILL. The FAULT phase is in each command's own
rule. -/
def transfer (c : BitVec 16) (s : State) : Result :=
  match decodeCommand c with
  | .ok i => exec i s
  | .error _ => .next (illegalWord s)

/-- The sequencer's step (R156): the micro-operation that `PH` selects, with `T` its operand; when the engine is ready
there is none and the engine waits. -/
def sequencerStep (s : State) : Result :=
  match decodeMicroOp s.selection with
  | .ok i => exec i s
  | .error _ => .next s

/-- The host's step when it presents the word `c` (R150): the transfer when the engine is ready, with the word taken;
otherwise the word is held and the sequencer goes on. -/
def presentCommand (c : BitVec 16) (rest : List HostEvent) (s : State) : Result :=
  if s.ready then transfer c { s with pending := rest } else sequencerStep s

/-- One step of the engine and its surroundings: a reset acts in any phase (R200); a presented command is transferred or
held; with no command presented the sequencer steps if it has a step. -/
def agentStep (s : State) : Result :=
  match s.pending with
  | .reset :: rest => .next { s with pending := rest }.hardwareReset
  | .command c :: rest => presentCommand c rest s
  | .idle :: rest => sequencerStep { s with pending := rest }
  | [] => sequencerStep s

/-- `s` with the command word `c` presented first; the engine is put in IDLE where it is busy, since no command is
transferred then (log 8). -/
def withCommand (s : State) (c : BitVec 16) : State :=
  { (if s.ready then s else s.setSeq .idle 0) with pending := .command c :: s.pending }

/-- `s` with the sequencer counter at the selection word's phase `p` and step index `t` and no command presented at the
next step; where PADB is selected outside a finalisation, PADST is FIRST, as FINAL sets it (log 8). -/
def withSelection (s : State) (p : Phase) (t : BitVec 6) (padst : PadState) : State :=
  { s.setSeq p t with PADST := padst, pending := .idle :: s.pending }

/-- `s` with a table word placed where the next step takes its instruction from (log 8). A word that is no instruction
is presented as a command. -/
def withCodeWord (s : State) (w : CodeWord) : State :=
  match w with
  | .command c => withCommand s c
  | .select sel =>
    match decodeMicroOp sel with
    | .ok (.padb t) => withSelection s .pad t (if s.PADST = .more then .more else .first)
    | .ok (.wld t) => withSelection s .wload t s.PADST
    | .ok (.wex t) => withSelection s .wexp t s.PADST
    | .ok (.rld t) => withSelection s .rload t s.PADST
    | .ok (.rnd t) => withSelection s .round t s.PADST
    | .ok (.feed t) => withSelection s .feed t (if s.PADST = .first then .none else s.PADST)
    | _ => withCommand s (sel.zeroExtend 16)

end Sys2Proof.Machine
end

