-- ==== Sys2Proof/Machine/Step.lean ====
section
/-! DEFINITION. The step of the machine, and a table word stored where the step takes its next instruction from. -/

namespace Sys2Proof.Machine

/-- One atomic step: one host transfer, one micro-operation, one reset, or waiting (44_driver_and_commands.md R150,
R156; 20_memory.md R44). -/
def step (s : State) : Host.Outcome State Fault Refusal := agentStep s

/-- `s` with the table word `w` placed so that the very next step runs it (log 8). `nbits` does not matter: the bits above
the word are 0. -/
def State.withFetchWord (s : State) (_nbits w : Nat) : State := withCodeWord s (codeWordOf w)

end Sys2Proof.Machine
end

