-- ==== Sys2Proof/Machine/Assembler.lean ====
section
/-! DEFINITION. The text of commands and the pseudo-instructions (30_encoding.md R67, R68): the host's tools, not the
engine. -/

namespace Sys2Proof.Assembler

open Sys2Proof.Machine

/-- The value of a digit character, 0..15; letters of either case (log 16). -/
def digit? (c : Char) : Option Nat :=
  let n := c.toNat
  if 48 ≤ n ∧ n ≤ 57 then some (n - 48)
  else if 97 ≤ n ∧ n ≤ 102 then some (n - 87)
  else if 65 ≤ n ∧ n ≤ 70 then some (n - 55)
  else none

/-- A number in a base, most significant digit first; none for no digits. -/
def number? (base : Nat) (cs : List Char) : Option Nat :=
  if cs = [] then none
  else cs.foldlM (fun v c => (digit? c).bind fun d => if d < base then some (base * v + d) else none) 0

/-- An operand: hexadecimal with `0x`, else decimal (R67). -/
def operand? : List Char → Option Nat
  | '0' :: 'x' :: cs => number? 16 cs
  | cs => number? 10 cs

/-- The text before a comment (R67: `; comment`). -/
def uncomment (cs : List Char) : List Char := cs.takeWhile (· ≠ ';')

/-- The fields of a line, separated by blanks (log 16). -/
def fields (cs : List Char) : List (List Char) :=
  (cs.foldr (fun c ws => if c = ' ' then [] :: ws else
    match ws with
    | w :: rest => (c :: w) :: rest
    | [] => [[c]]) [[]]).filter (· ≠ [])

/-- A line without its response (R67: the response "after `->`"). -/
def unanswered (ws : List (List Char)) : List (List Char) := ws.takeWhile (· ≠ ['-', '>'])

/-- A value in range as an `n`-bit operand. -/
def inRange (n : Nat) (v : Nat) : Option (BitVec n) := if v < 2 ^ n then some (BitVec.ofNat n v) else none

/-- One line of a command trace (R67): none for a line that is no command. -/
def parseLine (cs : List Char) : Option Instr :=
  match unanswered (fields (uncomment cs)) with
  | [['I', 'N', 'I', 'T']] => some .init
  | [['F', 'I', 'N', 'A', 'L']] => some .final
  | [['S', 'T', 'A', 'T']] => some .stat
  | [['S', 'R', 'S', 'T']] => some .srst
  | [['P', 'U', 'S', 'H', 'B'], d] => ((operand? d).bind (inRange 8)).map .pushb
  | [['R', 'D', 'W'], i] => ((operand? i).bind (inRange 3)).map .rdw
  | [['R', 'D', 'B'], j] => ((operand? j).bind (inRange 5)).map .rdb
  | _ => none

/-- A character's code as a byte: the "direct numeric cast"; refused above 255 (R68; 93_implementation_defined.md U2). -/
def charByte? (c : Char) : Option Byte := inRange 8 c.toNat

/-- The pseudo-instructions (R68). -/
inductive Pseudo where
  | pushx (bytes : List Byte)
  | pushs (text : List Char)
  | hashBytes (bytes : List Byte)
  | hashText (text : List Char)
  | rddig
  | rdhex
  deriving DecidableEq, Repr

/-- PUSHX: one PUSHB a byte, in order. -/
def pushes (bytes : List Byte) : List Instr := bytes.map .pushb

/-- HASH: INIT, the pushes, FINAL. -/
def hashCommands (bytes : List Byte) : List Instr := [.init] ++ pushes bytes ++ [.final]

/-- RDDIG: RDW 0 .. RDW 7. -/
def rddigCommands : List Instr := (List.range 8).map fun i => .rdw (BitVec.ofNat 3 i)

/-- RDHEX: RDB 0 .. RDB 31. -/
def rdhexCommands : List Instr := (List.range 32).map fun j => .rdb (BitVec.ofNat 5 j)

/-- The expansion of a pseudo-instruction (R68): none where the assembler refuses a character. -/
def Pseudo.expansion : Pseudo → Option (List Instr)
  | .pushx bytes => some (pushes bytes)
  | .pushs text => (text.mapM charByte?).map pushes
  | .hashBytes bytes => some (hashCommands bytes)
  | .hashText text => (text.mapM charByte?).map hashCommands
  | .rddig => some rddigCommands
  | .rdhex => some rdhexCommands

/-- A command sequence as what the host presents, one word after the other (R67: "wait until the engine is ready, then
transfer the word"). -/
def hostEvents (is : List Instr) : List HostEvent := (is.filterMap commandWord?).map .command

end Sys2Proof.Assembler
end

