-- ==== Sys2Proof/Machine/Reference.lean ====
section
/-! DEFINITION. The reference functions the engine realises: padding and segmentation (41_preprocessor.md part 1), the
message schedule (42_scheduler.md R120), compression (43_compressor.md R131), the digest and its texts
(44_driver_and_commands.md part 1). They are not hardware; the whole-transaction claims compare the engine with them. -/

namespace Sys2Proof.Reference

open Sys2Proof.Machine

/-- A block: 64 bytes (R104; 00_scope.md R4). -/
abbrev Block := Vector Byte 64

/-- `L < 2^61`: the messages the functions are defined on (R100, R106; log 15). -/
def inDomain (m : List Byte) : Bool := m.length < 2 ^ 61

/-- A byte's 8 bits, most significant first (R101). -/
def byteBits (b : Byte) : List Bool := (List.range 8).map fun j => b.getLsbD (7 - j)

/-- The message as a bit string (R101). -/
def messageBits (m : List Byte) : List Bool := m.flatMap byteBits

/-- `k`, the smallest number of '0' bits that makes `8L + 1 + k ≡ 448 (mod 512)` (R102, item 3). -/
def zeroBits (len : Nat) : Nat := (447 + 512 - 8 * len % 512) % 512

/-- The 64 bits of `8L`, most significant first (R102, item 4). -/
def lengthBits (len : Nat) : List Bool := (List.range 64).map fun i => (8 * len).testBit (63 - i)

/-- The padded stream as a bit string (R102). -/
def paddedBits (m : List Byte) : List Bool :=
  messageBits m ++ [true] ++ List.replicate (zeroBits m.length) false ++ lengthBits m.length

/-- `z = (55 - L) mod 64` (R103). -/
def zeroBytes (len : Nat) : Nat := (55 + 64 - len % 64) % 64

/-- `len[0] .. len[7]`: `len[i] = (8L)[63-8i : 56-8i]` (R103). -/
def lengthBytes (len : Nat) : List Byte :=
  (List.range 8).map fun i => (BitVec.ofNat 64 (8 * len)).extractLsb' (56 - 8 * i) 8

/-- `pad(m)`, the padded stream in bytes (R103). -/
def pad (m : List Byte) : List Byte :=
  m ++ [0x80] ++ List.replicate (zeroBytes m.length) 0x00 ++ lengthBytes m.length

/-- `ceil((8L + 1 + 64) / 512)` (R105). -/
def blockCount (len : Nat) : Nat := (8 * len + 1 + 64 + 511) / 512

/-- Block `q` of `pad(m)`: byte `p` is `pad(m)[64q + p]` (R104), for `q < blockCount`, where no index is outside. -/
def block (m : List Byte) (q : Nat) : Block := Vector.ofFn fun p => (pad m).getD (64 * q + p.val) 0

/-- The blocks in order (R104). -/
def blocks (m : List Byte) : List Block := (List.range (blockCount m.length)).map (block m)

/-- `preprocess(m)`: not defined for `L ≥ 2^61` (R106; log 15). -/
def preprocess (m : List Byte) : Option (List Block) := if inDomain m then some (blocks m) else none

/-- Word `n` of a block, big-endian (R120; 20_memory.md R41, item 2). -/
def blockWord (b : Block) (n : Fin 16) : Word :=
  b[4 * n.val] ++ b[4 * n.val + 1] ++ b[4 * n.val + 2] ++ b[4 * n.val + 3]

/-- `Wf[n-1], ..., Wf[0]`, the latest word first (R120). Behind `n ≥ 16` words, `Wf[n-16]`, `Wf[n-15]`, `Wf[n-7]` and
`Wf[n-2]` stand at places 15, 14, 6 and 1. -/
def scheduleUpTo (b : Block) : Nat → List Word
  | 0 => []
  | n + 1 =>
    let ws := scheduleUpTo b n
    (if h : n < 16 then blockWord b ⟨n, h⟩
      else ws.getD 15 0 + ssig0 (ws.getD 14 0) + ws.getD 6 0 + ssig1 (ws.getD 1 0)) :: ws

/-- `expand(block)` (R120). -/
def expand (b : Block) : Vector Word 64 :=
  Vector.ofFn fun i => (scheduleUpTo b (i.val + 1)).headD 0

/-- `x_n`, the working registers after the first `n` rounds (R131). -/
def rounds (ws : Vector Word 64) (prior : Vector Word 8) : (n : Nat) → n ≤ 64 → Vector Word 8
  | 0, _ => prior
  | n + 1, h => round (rounds ws prior n (by omega)) (Config.K ⟨n, h⟩) ws[n]

/-- `compress(Ws, prior)` (R131). -/
def compress (ws : Vector Word 64) (prior : Vector Word 8) : Vector Word 8 :=
  Vector.ofFn fun i => prior[i] + (rounds ws prior 64 (Nat.le_refl 64))[i]

/-- The running digest after the given blocks (R160). -/
def digestAfter (bs : List Block) (d : Vector Word 8) : Vector Word 8 :=
  bs.foldl (fun d b => compress (expand b) d) d

/-- `D_nblocks` of R160: the eight digest words of a message in the domain. -/
def hashWords (m : List Byte) : Vector Word 8 := digestAfter (blocks m) (Vector.ofFn Config.IV)

/-- `serialize(D)` (R161): byte `j` is `D[j div 4][31 - 8(j mod 4) : 24 - 8(j mod 4)]`. -/
def serialize (d : Vector Word 8) : Vector Byte 32 :=
  Vector.ofFn fun j => d[j.val / 4].extractLsb' (24 - 8 * (j.val % 4)) 8

/-- `hash(m)` (R160): defined for messages shorter than 2^61 bytes. -/
def hash (m : List Byte) : Option (Vector Byte 32) :=
  if inDomain m then some (serialize (hashWords m)) else none

/-- The lowercase hexadecimal digit of a value 0..15 (R162). -/
def hexDigit (v : Nat) : Char := if v < 10 then Char.ofNat (48 + v) else Char.ofNat (87 + v)

/-- `hex(bytes)` (R162), a function for test harnesses: first the digit of `v div 16`, then of `v mod 16`. -/
def hex (bytes : List Byte) : List Char :=
  bytes.flatMap fun v => [hexDigit (v.toNat / 16), hexDigit (v.toNat % 16)]

/-- Sequencer steps of a whole transaction (R163): 130 a block and one for each PADB. -/
def sequencerSteps (len : Nat) : Nat := 130 * blockCount len + (if len % 64 ≤ 55 then 1 else 2)

end Sys2Proof.Reference
end

