-- ==== Sys2Proof/Safety.lean ====
section
/-! DEFINITION. The terms the claims are stated in: the rules every reachable state keeps, what of the data state is
live, when two runs look alike to the control, and runs of the engine. -/

namespace Sys2Proof.Machine

namespace Phase

/-- The step indices a phase uses (10_state.md R17; 30_encoding.md R66). -/
def usesIndex (p : Phase) (t : BitVec 6) : Bool :=
  match p with
  | .wload => t.toNat < 16
  | .wexp => 16 ≤ t.toNat
  | .round => true
  | .idle | .absorb | .pad | .rload | .feed | .done | .fault => t = 0

/-- The padding progress a phase may have (10_state.md R19; 41_preprocessor.md R109; 43_compressor.md R134). -/
def allowsPadding (p : Phase) (q : PadState) : Bool :=
  match p with
  | .idle | .absorb | .done | .fault => q = .none
  | .pad => q = .first ∨ q = .more
  | .wload | .wexp | .rload | .round | .feed => q != .first

end Phase

namespace State

/-- The number of message bytes pushed, modulo 64: bits 8:3 of `LEN` (10_state.md R16). -/
def bytesMod64 (s : State) : BitVec 6 := s.LEN.extractLsb' 3 6

/-- The fill count in each phase (10_state.md R15): the bytes of the partial block while the message is taken in and
until PADB has used it, 0 while a block is processed, in DONE and in IDLE. -/
def countFits (s : State) : Bool :=
  match s.PH with
  | .idle => s.N = 0 ∧ s.LEN = 0
  | .absorb => s.N = s.bytesMod64
  | .pad => if s.PADST = .first then s.N = s.bytesMod64 else s.N = 0 ∧ 56 ≤ s.bytesMod64.toNat
  | .wload | .wexp | .rload | .round | .feed =>
    s.N = 0 ∧ (s.PADST = .none → s.bytesMod64 = 0) ∧ (s.PADST = .more → 56 ≤ s.bytesMod64.toNat)
  | .done => s.N = 0
  | .fault => true

/-- The rules a reachable control state keeps (10_state.md R15, R16, R17, R19, R20). -/
def consistent (s : State) : Bool :=
  s.PH.usesIndex s.T && s.PH.allowsPadding s.PADST && decide (s.ECODE ≠ .enone ↔ s.PH = .fault) &&
    decide (s.LEN.extractLsb' 0 3 = 0) && s.countFits

/-- The host holds a command or is silent: nothing but the sequencer changes the engine until it is ready. -/
def hostHolds (s : State) : Bool :=
  match s.pending with
  | .idle :: _ | .reset :: _ => false
  | .command _ :: _ | [] => true

/-- The same control state (10_state.md R10 without the data state). -/
def sameControl (s t : State) : Prop :=
  s.PH = t.PH ∧ s.T = t.T ∧ s.N = t.N ∧ s.LEN = t.LEN ∧ s.PADST = t.PADST ∧ s.ECODE = t.ECODE

/-- Nothing of the data state is changed. -/
def sameData (s t : State) : Prop := t.r = s.r ∧ t.H = s.H ∧ t.W = s.W ∧ t.B = s.B

/-- The same host side: what is still to come, and the number of resets. -/
def sameHost (s t : State) : Prop := t.pending = s.pending ∧ t.resets = s.resets

/-- `t` is `s` after fault entry with the given code (60_exceptions.md R185): ECODE and PH are written, the response is
the STATUS of `t`, and nothing else is changed. -/
def entersFault (s t : State) (code : ErrorCode) : Prop :=
  t.ECODE = code ∧ t.PH = .fault ∧ t.T = s.T ∧ t.responses = s.responses ++ [t.status] ∧ s.sameData t ∧
    t.N = s.N ∧ t.LEN = s.LEN ∧ t.PADST = s.PADST ∧ s.sameHost t

/-- `t` is `s` with the control state at its reset values and the data state as it was (70_reset_and_hazards.md R201). -/
def controlIsReset (s t : State) : Prop :=
  t.PH = .idle ∧ t.T = 0 ∧ t.N = 0 ∧ t.LEN = 0 ∧ t.PADST = .none ∧ t.ECODE = .enone ∧ s.sameData t

/-- The data that has a value the engine still needs, by phase (10_state.md R25), is the same in `s` and `t`. -/
def sameLive (s t : State) : Prop :=
  match s.PH with
  | .idle | .fault => True
  | .absorb => s.H = t.H ∧ ∀ i : Fin 64, i.val < s.N.toNat → s.B[i] = t.B[i]
  | .pad => s.H = t.H ∧ (s.PADST = .first → ∀ i : Fin 64, i.val < s.N.toNat → s.B[i] = t.B[i])
  | .wload => s.H = t.H ∧ s.B = t.B ∧ ∀ i : Fin 64, i.val < s.T.toNat → s.W[i] = t.W[i]
  | .wexp => s.H = t.H ∧ ∀ i : Fin 64, i.val < s.T.toNat → s.W[i] = t.W[i]
  | .rload => s.H = t.H ∧ s.W = t.W
  | .round => s.H = t.H ∧ s.W = t.W ∧ s.r = t.r
  | .feed => s.H = t.H ∧ s.r = t.r
  | .done => s.H = t.H

end State

/-- Two host events that differ at most in the byte a PUSHB carries. -/
def HostEvent.sameShape : HostEvent → HostEvent → Prop
  | .idle, .idle => True
  | .reset, .reset => True
  | .command c, .command d =>
    c = d ∨ ∃ x y, decodeCommand c = .ok (.pushb x) ∧ decodeCommand d = .ok (.pushb y)
  | _, _ => False

/-- Where the phase may go (10_state.md R18, column "Left by"; 43_compressor.md R134); any phase goes to IDLE by the
hardware reset. -/
def Phase.goesTo : Phase → Phase → Bool
  | .idle, q => q = .idle ∨ q = .absorb ∨ q = .fault
  | .absorb, q => q = .absorb ∨ q = .wload ∨ q = .pad ∨ q = .idle ∨ q = .fault
  | .pad, q => q = .wload ∨ q = .idle
  | .wload, q => q = .wload ∨ q = .wexp ∨ q = .idle
  | .wexp, q => q = .wexp ∨ q = .rload ∨ q = .idle
  | .rload, q => q = .round ∨ q = .idle
  | .round, q => q = .round ∨ q = .feed ∨ q = .idle
  | .feed, q => q = .absorb ∨ q = .pad ∨ q = .done ∨ q = .idle
  | .done, q => q = .done ∨ q = .absorb ∨ q = .idle ∨ q = .fault
  | .fault, q => q = .fault ∨ q = .idle

/-- The fault a transferred word raises in a state whose phase is not FAULT, in the priority of 60_exceptions.md R184:
decode, then phase (the table of 44_driver_and_commands.md R150), then length. -/
def faultOf (c : BitVec 16) (s : State) : ErrorCode :=
  match decodeCommand c with
  | .error _ => .eill
  | .ok (.pushb _) => if s.PH ≠ .absorb then .eseq else if s.LEN = lenMax then .elen else .enone
  | .ok .final => if s.PH ≠ .absorb then .eseq else .enone
  | .ok (.rdw _) | .ok (.rdb _) => if s.PH ≠ .done then .eseq else .enone
  | .ok _ => .enone

/-- `n` steps of the engine. -/
abbrev run (n : Nat) (s : State) : Result := Host.Core.run Sys2Proof.core n s

/-- The phase before step `k` of a block's 130 steps: 16 WLD, 48 WEX, 1 RLD, 64 RND, 1 FEED (R165). -/
def blockPhase (k : Nat) : Phase :=
  if k < 16 then .wload else if k < 64 then .wexp else if k = 64 then .rload else if k < 129 then .round else .feed

/-- The states after 1, 2, ..., `n` steps, as far as the run goes. -/
def trace : Nat → State → List State
  | 0, _ => []
  | n + 1, s =>
    match step s with
    | .next t => t :: trace n t
    | .fault _ => []
    | .refused _ => []

/-- The block buffer at each entry of phase WLOAD among the given states (41_preprocessor.md R110). -/
def blocksHandedOver (ss : List State) : List Reference.Block :=
  (ss.filter fun s => s.PH = .wload ∧ s.T = 0).map State.B

/-- The transaction of a message (44_driver_and_commands.md R163): INIT, the pushes, FINAL. -/
def transaction (m : List Byte) : List HostEvent := Assembler.hostEvents (Assembler.hashCommands m)

/-- An event that is not a wait and not a STAT (word 0x6000), which writes nothing. -/
def HostEvent.matters : HostEvent → Bool
  | .idle => false
  | .command c => c ≠ 0x6000
  | .reset => true

end Sys2Proof.Machine
end

