-- ==== Sys2Proof/Certificates/Slice0/Obligations.lean ====
section
/-! DEFINITION. The statements about the engine, by the file of the spec their rules stand in. A `Fault` of the model (a
stop) and a fault of the engine (phase FAULT) are different things: the engine's faults are next states. -/

open Sys2Proof Sys2Proof.Machine

/-! ## 30_encoding.md: words -/

/-- Words of 95_test_vectors.md section 7.1 and selection words of section 7.4. -/
def Obligations.SpecWordsDecodeAsListed : Prop :=
  decodeCommand 0x1000 = .ok .init ∧ decodeCommand 0x2061 = .ok (.pushb 97) ∧ decodeCommand 0x20ff = .ok (.pushb 255) ∧
  decodeCommand 0x3000 = .ok .final ∧ decodeCommand 0x4000 = .ok (.rdw 0) ∧ decodeCommand 0x4007 = .ok (.rdw 7) ∧
  decodeCommand 0x501f = .ok (.rdb 31) ∧ decodeCommand 0x6000 = .ok .stat ∧ decodeCommand 0xf000 = .ok .srst ∧
  decodeMicroOp 0x080 = .ok (.padb 0) ∧ decodeMicroOp 0x0cf = .ok (.wld 15) ∧ decodeMicroOp 0x110 = .ok (.wex 16) ∧
  decodeMicroOp 0x13f = .ok (.wex 63) ∧ decodeMicroOp 0x140 = .ok (.rld 0) ∧ decodeMicroOp 0x1bf = .ok (.rnd 63) ∧
  decodeMicroOp 0x1c0 = .ok (.feed 0) ∧ decodeMicroOp 0x200 = .error .noMicroOperation ∧
  decodeCommand 0x0000 = .error .reservedOperation ∧ decodeCommand 0x1001 = .error .argumentBits ∧
  decodeCommand 0x2161 = .error .mustBeZeroField ∧ decodeCommand 0x4008 = .error .argumentBits ∧
  decodeCommand 0x5020 = .error .argumentBits ∧ decodeCommand 0x7000 = .error .reservedOperation ∧
  decodeCommand 0xffff = .error .mustBeZeroField

/-- Decode and encode are inverse, for every instruction with every operand and for every word that decodes. -/
def Obligations.DecodeInvertsEncode : Prop :=
  (∀ i, decode (encode i) = .ok i) ∧ ∀ w i, decode w = .ok i → encode i = w

/-- R63, R66: a word is an instruction exactly when its row's mask and match say so, and no two rows overlap. -/
def Obligations.DecodeFollowsMaskAndMatch : Prop :=
  (∀ (c : BitVec 16), ∀ row ∈ opcodeTable,
    row.selects 16 c.toNat = true ↔ ∃ i, decodeCommand c = .ok i ∧ i.mnemonic = row.mnemonic) ∧
  (∀ (s : BitVec 10), ∀ row ∈ opcodeTable,
    row.selects 10 s.toNat = true ↔ ∃ i, decodeMicroOp s = .ok i ∧ i.mnemonic = row.mnemonic) ∧
  opcodeTable.Pairwise fun a b =>
    a.width = b.width → a.pattern &&& b.mask ≠ b.pattern &&& a.mask

/-- R63: "Exactly 300 of the 65,536 words are legal". -/
def Obligations.ThreeHundredCommandWordsAreLegal : Prop :=
  ∃ legal : List (BitVec 16), legal.Nodup ∧ legal.length = 300 ∧ ∀ c, c ∈ legal ↔ ∃ i, decodeCommand c = .ok i

/-- R64: which words are illegal, by the numbers of their fields; and what transferring one does, in a ready phase other
than FAULT and in FAULT. -/
def Obligations.IllegalWordsAreReservedAndRaiseEill : Prop :=
  ∀ c : BitVec 16,
    ((∃ e, decodeCommand c = .error e) ↔
      c.toNat / 4096 = 0 ∨ 7 ≤ c.toNat / 4096 ∧ c.toNat / 4096 ≤ 14 ∨ c.toNat / 256 % 16 ≠ 0 ∨
      (c.toNat / 4096 = 1 ∨ c.toNat / 4096 = 3 ∨ c.toNat / 4096 = 6 ∨ c.toNat / 4096 = 15) ∧ c.toNat % 256 ≠ 0 ∨
      c.toNat / 4096 = 4 ∧ c.toNat % 256 / 8 ≠ 0 ∨ c.toNat / 4096 = 5 ∧ c.toNat % 256 / 32 ≠ 0) ∧
    ∀ (s : State) (rest : List HostEvent) (e : Reject),
      s.ready = true → s.pending = .command c :: rest → decodeCommand c = .error e →
      (s.PH ≠ .fault → ∃ t, step s = .next t ∧ { s with pending := rest }.entersFault t .eill) ∧
      (s.PH = .fault → step s = .next { s with pending := rest, responses := s.responses ++ [s.status] })

/-- R69: every transfer returns exactly one response: the digest word or byte for a read in DONE, otherwise the STATUS
of the state after the command. -/
def Obligations.EveryTransferGivesOneResponse : Prop :=
  ∀ (s : State) (c : BitVec 16) (rest : List HostEvent), s.ready = true → s.pending = .command c :: rest →
    ∃ t, step s = .next t ∧ t.pending = rest ∧
      ((∀ i, s.PH = .done → decodeCommand c = .ok (.rdw i) → t.responses = s.responses ++ [s.H[i.toFin]]) ∧
       (∀ j : BitVec 5, s.PH = .done → decodeCommand c = .ok (.rdb j) →
          t.responses = s.responses ++ [((Reference.serialize s.H)[j.toFin]).zeroExtend 32]) ∧
       ((s.PH = .done → ∀ i j, decodeCommand c ≠ .ok (.rdw i) ∧ decodeCommand c ≠ .ok (.rdb j)) →
          t.responses = s.responses ++ [t.status]))

/-- R67: lines of a command trace and the words they stand for. -/
def Obligations.TraceLinesStandForTheirWords : Prop :=
  (Assembler.parseLine "PUSHB 0x61".toList).bind commandWord? = some 0x2061 ∧
  (Assembler.parseLine "RDW 3".toList).bind commandWord? = some 0x4003 ∧
  (Assembler.parseLine "RDB 31".toList).bind commandWord? = some 0x501F ∧
  (Assembler.parseLine "STAT -> 0x00000301".toList).bind commandWord? = some 0x6000

/-- R68: PUSHS gives one PUSHB a character, in order, with the character's code, and is refused exactly when a code
exceeds 255. -/
def Obligations.PushsRefusesCodesAboveOneByte : Prop :=
  ∀ text : List Char,
    ((Assembler.Pseudo.pushs text).expansion = none ↔ ∃ c ∈ text, 255 < c.toNat) ∧
    ((∀ c ∈ text, c.toNat ≤ 255) →
      (Assembler.Pseudo.pushs text).expansion = some (text.map fun c => .pushb (BitVec.ofNat 8 c.toNat)))

/-! ## 44_driver_and_commands.md, 20_memory.md: who steps, and what a step runs -/

/-- A ready engine's step on a presented command word runs the decoded command, with the word taken (R150). -/
def Obligations.StepRunsTheTransferredCommand : Prop :=
  ∀ (s : State) (c : BitVec 16) (rest : List HostEvent) (i : Instr),
    s.ready = true → s.pending = .command c :: rest → decodeCommand c = .ok i →
      step s = exec i { s with pending := rest }

/-- A busy engine's step runs the micro-operation of its selection word, with the host waiting, silent or holding a
command (R156, R150). -/
def Obligations.StepRunsTheSelectedMicroOperation : Prop :=
  ∀ (s : State) (i : Instr), decodeMicroOp s.selection = .ok i → s.busy = true →
    (s.hostHolds = true → step s = exec i s) ∧
    ∀ rest, s.pending = .idle :: rest → step s = exec i { s with pending := rest }

/-- R156: a busy engine selects exactly the micro-operation of its phase, with `T` as operand, and a ready one none. -/
def Obligations.ThePhaseSelectsTheMicroOperation : Prop :=
  ∀ s : State,
    (s.ready = true → decodeMicroOp s.selection = .error .noMicroOperation) ∧
    (s.PH = .pad → decodeMicroOp s.selection = .ok (.padb s.T)) ∧
    (s.PH = .wload → decodeMicroOp s.selection = .ok (.wld s.T)) ∧
    (s.PH = .wexp → decodeMicroOp s.selection = .ok (.wex s.T)) ∧
    (s.PH = .rload → decodeMicroOp s.selection = .ok (.rld s.T)) ∧
    (s.PH = .round → decodeMicroOp s.selection = .ok (.rnd s.T)) ∧
    (s.PH = .feed → decodeMicroOp s.selection = .ok (.feed s.T))

/-- R150: with no command presented a ready engine waits, nothing of it changes. -/
def Obligations.AReadyEngineWaits : Prop :=
  ∀ s : State, s.ready = true →
    (s.pending = [] → step s = .next s) ∧
    ∀ rest, s.pending = .idle :: rest → step s = .next { s with pending := rest }

/-- R150, R203: a command presented while the engine is busy is held: it stays presented, no response is given, no fault
is raised. -/
def Obligations.ACommandIsHeldWhileBusy : Prop :=
  ∀ (s t : State) (c : BitVec 16) (rest : List HostEvent),
    s.busy = true → s.pending = .command c :: rest → step s = .next t →
      t.pending = s.pending ∧ t.responses = s.responses ∧ t.PH ≠ .fault ∧ t.ECODE = s.ECODE

/-- R150's table, last two columns, at the level of one instruction: in FAULT every command but STAT and SRST is discarded
with STATUS as response, and in a busy phase every command is held. That `exec` answers the same state for a held
command is the model's choice (log 4). -/
def Obligations.CommandsAreDiscardedInFaultAndHeldWhileBusy : Prop :=
  ∀ (i : Instr) (s : State), i.isCommand = true →
    (s.PH = .fault → i ≠ .srst → exec i s = .next { s with responses := s.responses ++ [s.status] }) ∧
    (s.busy = true → exec i s = .next s)

/-! ## The commands -/

/-- INIT (R151). -/
def Obligations.InitOpensAFreshContext : Prop :=
  encode .init = .command 0x1000 ∧
  ∀ s : State, s.PH = .idle ∨ s.PH = .absorb ∨ s.PH = .done →
    ∃ t, exec .init s = .next t ∧ (∀ i : Fin 8, t.H[i] = Config.IV i) ∧ t.N = 0 ∧ t.LEN = 0 ∧ t.PADST = .none ∧
      t.PH = .absorb ∧ t.T = 0 ∧ t.responses = s.responses ++ [t.status] ∧
      (s.ECODE = .enone → t.status = 0x00000001) ∧
      t.r = s.r ∧ t.W = s.W ∧ t.B = s.B ∧ t.ECODE = s.ECODE ∧ s.sameHost t

/-- PUSHB (R107): the accepted byte, with the block full or not; ELEN; ESEQ; discarded in FAULT; held while busy. -/
def Obligations.PushbAppendsOneMessageByte : Prop :=
  ∀ (d : Byte) (s : State),
    encode (.pushb d) = .command (0x2000 ||| d.zeroExtend 16) ∧
    (s.PH = .absorb → s.LEN.toNat ≠ 2 ^ 64 - 8 →
      ∃ t, exec (.pushb d) s = .next t ∧
        (∀ k : Fin 64, t.B[k] = if k.val = s.N.toNat then d else s.B[k]) ∧
        t.LEN = s.LEN + 8 ∧ (s.LEN.toNat % 8 = 0 → t.LEN.toNat = s.LEN.toNat + 8) ∧
        (s.N.toNat = 63 → t.N = 0 ∧ t.PH = .wload ∧ t.T = 0) ∧
        (s.N.toNat < 63 → t.N.toNat = s.N.toNat + 1 ∧ t.PH = .absorb ∧ t.T = s.T) ∧
        t.responses = s.responses ++ [t.status] ∧
        t.H = s.H ∧ t.W = s.W ∧ t.r = s.r ∧ t.PADST = s.PADST ∧ t.ECODE = s.ECODE ∧ s.sameHost t) ∧
    (s.PH = .absorb → s.LEN.toNat = 2 ^ 64 - 8 → ∃ t, exec (.pushb d) s = .next t ∧ s.entersFault t .elen) ∧
    (s.PH = .idle ∨ s.PH = .done → ∃ t, exec (.pushb d) s = .next t ∧ s.entersFault t .eseq) ∧
    (s.PH = .fault → exec (.pushb d) s = .next { s with responses := s.responses ++ [s.status] }) ∧
    ∀ rest t, s.busy = true → s.pending = .command (0x2000 ||| d.zeroExtend 16) :: rest → step s = .next t →
      t.pending = s.pending ∧ t.responses = s.responses ∧ t.LEN = s.LEN

/-- FINAL (R108). -/
def Obligations.FinalStartsPadding : Prop :=
  encode .final = .command 0x3000 ∧
  ∀ s : State,
    (s.PH = .absorb →
      ∃ t, exec .final s = .next t ∧ t.PADST = .first ∧ t.PH = .pad ∧ t.T = 0 ∧
        t.responses = s.responses ++ [t.status] ∧
        (s.ECODE = .enone → t.status.toNat = 0x00000002 + 256 * s.N.toNat) ∧
        t.N = s.N ∧ t.LEN = s.LEN ∧ s.sameData t ∧ t.ECODE = s.ECODE ∧ s.sameHost t) ∧
    (s.PH = .idle ∨ s.PH = .done → ∃ t, exec .final s = .next t ∧ s.entersFault t .eseq)

/-- RDW (R154). -/
def Obligations.RdwReadsADigestWord : Prop :=
  ∀ (i : BitVec 3) (s : State),
    encode (.rdw i) = .command (0x4000 ||| i.zeroExtend 16) ∧
    (s.PH = .done → exec (.rdw i) s = .next { s with responses := s.responses ++ [s.H[i.toFin]] }) ∧
    (s.PH = .idle ∨ s.PH = .absorb → ∃ t, exec (.rdw i) s = .next t ∧ s.entersFault t .eseq)

/-- RDB (R155): the response is byte `j` of `serialize(H)`, by number: byte `j mod 4` of word `j div 4`, the most
significant first. -/
def Obligations.RdbReadsADigestByte : Prop :=
  ∀ (j : BitVec 5) (s : State),
    encode (.rdb j) = .command (0x5000 ||| j.zeroExtend 16) ∧
    (s.PH = .done →
      ∃ v : Word, exec (.rdb j) s = .next { s with responses := s.responses ++ [v] } ∧
        v.toNat = (s.H[j.toNat / 4]'(by omega)).toNat / 256 ^ (3 - j.toNat % 4) % 256 ∧
        v = ((Reference.serialize s.H)[j.toFin]).zeroExtend 32) ∧
    (s.PH = .idle ∨ s.PH = .absorb → ∃ t, exec (.rdb j) s = .next t ∧ s.entersFault t .eseq)

/-- STAT (R152): accepted in every ready phase, FAULT included; only the response. -/
def Obligations.StatReadsTheStatus : Prop :=
  encode .stat = .command 0x6000 ∧
  ∀ s : State, s.ready = true → exec .stat s = .next { s with responses := s.responses ++ [s.status] }

/-- SRST (R153, R201): accepted in every ready phase, FAULT included; the only command that leaves FAULT; held while
busy. -/
def Obligations.SrstResetsTheControlState : Prop :=
  encode .srst = .command 0xF000 ∧
  (∀ s : State, s.ready = true →
    ∃ t, exec .srst s = .next t ∧ s.controlIsReset t ∧ t.responses = s.responses ++ [0x00000000] ∧ s.sameHost t) ∧
  (∀ (i : Instr) (s t : State), i.isCommand = true → i ≠ .srst → s.PH = .fault → exec i s = .next t → t.PH = .fault) ∧
  ∀ (s t : State) (rest : List HostEvent), s.busy = true → s.pending = .command 0xF000 :: rest → step s = .next t →
    t.pending = s.pending ∧ t.responses = s.responses

/-! ## The micro-operations -/

/-- PADB (R109), both cases: every byte of the block, the length's bytes by number. -/
def Obligations.PadbBuildsThePaddingBlock : Prop :=
  decodeMicroOp 0x080 = .ok (.padb 0) ∧
  ∀ s : State, s.PADST = .first ∨ s.PADST = .more →
    ∃ t, exec (.padb 0) s = .next t ∧
      (s.PADST = .first →
        (∀ k : Fin 64, k.val < s.N.toNat → t.B[k] = s.B[k]) ∧
        (∀ k : Fin 64, k.val = s.N.toNat → t.B[k] = 0x80) ∧
        (∀ k : Fin 64, s.N.toNat < k.val → (s.N.toNat ≤ 55 → k.val < 56) → t.B[k] = 0x00) ∧
        (s.N.toNat ≤ 55 → t.PADST = .last) ∧ (56 ≤ s.N.toNat → t.PADST = .more)) ∧
      (s.PADST = .more → (∀ k : Fin 64, k.val < 56 → t.B[k] = 0x00) ∧ t.PADST = .last) ∧
      (s.PADST = .more ∨ s.N.toNat ≤ 55 →
        ∀ k : Fin 64, 56 ≤ k.val → t.B[k].toNat = s.LEN.toNat / 256 ^ (63 - k.val) % 256) ∧
      t.N = 0 ∧ t.PH = .wload ∧ t.T = 0 ∧
      t.LEN = s.LEN ∧ t.H = s.H ∧ t.W = s.W ∧ t.r = s.r ∧ t.ECODE = s.ECODE ∧ t.responses = s.responses ∧ s.sameHost t

/-- WLD (R121): the word by number, big-endian. -/
def Obligations.WldLoadsABigEndianWord : Prop :=
  ∀ (t : BitVec 6) (s : State) (h : t.toNat < 16),
    decodeMicroOp (0x0C0 ||| t.zeroExtend 10) = .ok (.wld t) ∧ ∃ u, exec (.wld t) s = .next u ∧
      u.W[t.toNat].toNat = s.B[4 * t.toNat].toNat * 2 ^ 24 + s.B[4 * t.toNat + 1].toNat * 2 ^ 16 +
        s.B[4 * t.toNat + 2].toNat * 2 ^ 8 + s.B[4 * t.toNat + 3].toNat ∧
      (∀ k : Fin 64, k.val ≠ t.toNat → u.W[k] = s.W[k]) ∧
      (t = 15 → u.PH = .wexp ∧ u.T = 16) ∧ (t ≠ 15 → u.PH = .wload ∧ u.T = t + 1) ∧
      u.B = s.B ∧ u.H = s.H ∧ u.r = s.r ∧ u.N = s.N ∧ u.LEN = s.LEN ∧ u.PADST = s.PADST ∧ u.ECODE = s.ECODE ∧
      u.responses = s.responses ∧ s.sameHost u

/-- WEX (R122): the sum by number, reduced once (R80). -/
def Obligations.WexComputesAScheduleWord : Prop :=
  ∀ (t : BitVec 6) (s : State) (h : 16 ≤ t.toNat),
    have := t.isLt
    decodeMicroOp (0x100 ||| t.zeroExtend 10) = .ok (.wex t) ∧ ∃ u, exec (.wex t) s = .next u ∧
      u.W[t.toNat].toNat = (s.W[t.toNat - 16].toNat + (ssig0 s.W[t.toNat - 15]).toNat + s.W[t.toNat - 7].toNat +
        (ssig1 s.W[t.toNat - 2]).toNat) % 2 ^ 32 ∧
      (∀ k : Fin 64, k.val ≠ t.toNat → u.W[k] = s.W[k]) ∧
      (t = 63 → u.PH = .rload ∧ u.T = 0) ∧ (t ≠ 63 → u.PH = .wexp ∧ u.T = t + 1) ∧
      u.B = s.B ∧ u.H = s.H ∧ u.r = s.r ∧ u.N = s.N ∧ u.LEN = s.LEN ∧ u.PADST = s.PADST ∧ u.ECODE = s.ECODE ∧
      u.responses = s.responses ∧ s.sameHost u

/-- RLD (R132). -/
def Obligations.RldCopiesTheDigest : Prop :=
  decodeMicroOp 0x140 = .ok (.rld 0) ∧
  ∀ s : State,
    ∃ t, exec (.rld 0) s = .next t ∧ (∀ i : Fin 8, t.r[i] = s.H[i]) ∧ t.PH = .round ∧ t.T = 0 ∧
      t.H = s.H ∧ t.W = s.W ∧ t.B = s.B ∧ t.N = s.N ∧ t.LEN = s.LEN ∧ t.PADST = s.PADST ∧ t.ECODE = s.ECODE ∧
      t.responses = s.responses ∧ s.sameHost t

/-- RND (R133, with the round of R130 written out): each register after the round. -/
def Obligations.RndRunsOneRound : Prop :=
  ∀ (t : BitVec 6) (s : State) (t1 t2 : Word),
    t1 = s.r[7] + bsig1 s.r[4] + ch s.r[4] s.r[5] s.r[6] + Config.K t.toFin + s.W[t.toNat]'t.isLt →
    t2 = bsig0 s.r[0] + maj s.r[0] s.r[1] s.r[2] →
    decodeMicroOp (0x180 ||| t.zeroExtend 10) = .ok (.rnd t) ∧ ∃ u, exec (.rnd t) s = .next u ∧
      u.r[0] = t1 + t2 ∧ u.r[1] = s.r[0] ∧ u.r[2] = s.r[1] ∧ u.r[3] = s.r[2] ∧ u.r[4] = s.r[3] + t1 ∧
      u.r[5] = s.r[4] ∧ u.r[6] = s.r[5] ∧ u.r[7] = s.r[6] ∧
      (t = 63 → u.PH = .feed ∧ u.T = 0) ∧ (t ≠ 63 → u.PH = .round ∧ u.T = t + 1) ∧
      u.H = s.H ∧ u.W = s.W ∧ u.B = s.B ∧ u.N = s.N ∧ u.LEN = s.LEN ∧ u.PADST = s.PADST ∧ u.ECODE = s.ECODE ∧
      u.responses = s.responses ∧ s.sameHost u

/-- FEED (R134): the sum by number, and the three cases of the next phase. -/
def Obligations.FeedAddsIntoTheDigest : Prop :=
  decodeMicroOp 0x1C0 = .ok (.feed 0) ∧
  ∀ s : State, s.PADST ≠ .first →
    ∃ t, exec (.feed 0) s = .next t ∧ (∀ i : Fin 8, t.H[i].toNat = (s.H[i].toNat + s.r[i].toNat) % 2 ^ 32) ∧
      (s.PADST = .none → t.PH = .absorb ∧ t.PADST = .none) ∧ (s.PADST = .more → t.PH = .pad ∧ t.PADST = .more) ∧
      (s.PADST = .last → t.PH = .done ∧ t.PADST = .none) ∧ t.T = 0 ∧
      t.r = s.r ∧ t.W = s.W ∧ t.B = s.B ∧ t.N = s.N ∧ t.LEN = s.LEN ∧ t.ECODE = s.ECODE ∧
      t.responses = s.responses ∧ s.sameHost t

/-- 93_implementation_defined.md U10: where the sequencer has no step, the micro-operation stops by name: a step index
outside its range, PADB with PADST NONE or LAST, FEED with PADST FIRST. -/
def Obligations.MicroOperationsStopWhereThereIsNoStep : Prop :=
  ∀ s : State,
    (∀ i : Instr, i.wellFormed = false → exec i s = .fault .stepIndexOutOfRange) ∧
    (s.PADST = .none ∨ s.PADST = .last → exec (.padb 0) s = .fault .padbWithoutPadding) ∧
    (s.PADST = .first → exec (.feed 0) s = .fault .feedBeforePadding)

/-! ## 10_state.md: the state, its invariants and its views -/

/-- R26 for the control state, the status and the level outputs; the reset state keeps the reachable-state rules. -/
def Obligations.ResetLeavesTheControlStateAtZero : Prop :=
  State.reset.PH = .idle ∧ State.reset.T = 0 ∧ State.reset.N = 0 ∧ State.reset.LEN = 0 ∧ State.reset.PADST = .none ∧
  State.reset.ECODE = .enone ∧ State.reset.status = 0x00000000 ∧ State.reset.ready = true ∧ State.reset.busy = false ∧
  State.reset.done = false ∧ State.reset.err = false ∧ State.reset.consistent = true

/-- R15, R16, R17, R19, R20: every step keeps the rules of the control state. -/
def Obligations.EveryStepKeepsTheStateConsistent : Prop :=
  ∀ s t : State, s.consistent = true → step s = .next t → t.consistent = true

/-- R192, R156: from a consistent state the engine never stops, however long it runs and whatever the host does. -/
def Obligations.NoRunOfAConsistentStateStops : Prop :=
  ∀ (n : Nat) (s : State), s.consistent = true → ∃ t, run n s = .next t ∧ t.consistent = true

/-- R18: the phases a phase is left for. -/
def Obligations.PhasesFollowThePhaseTable : Prop :=
  ∀ s t : State, step s = .next t → s.PH.goesTo t.PH = true

/-- R21: the fields of STATUS, by number, and its reserved bits. -/
def Obligations.StatusLaysOutItsFields : Prop :=
  ∀ s : State,
    s.status.toNat = s.PH.code.toNat + 16 * s.ECODE.code.toNat + 256 * s.N.toNat ∧
    s.status.extractLsb' 6 2 = 0 ∧ s.status.extractLsb' 14 18 = 0

/-- R21, last part: the STATUS words of consistent states, by phase. -/
def Obligations.StatusTellsTheHostWhereTheEngineIs : Prop :=
  ∀ s : State, s.consistent = true →
    (s.PH = .idle → s.status = 0x00000000) ∧ (s.PH = .absorb → s.status.toNat = 0x01 + 256 * s.N.toNat) ∧
    (s.PH = .pad → s.status.toNat = 0x02 + 256 * s.N.toNat) ∧ (s.PH = .wload → s.status = 0x00000003) ∧
    (s.PH = .done → s.status = 0x00000008) ∧
    (s.PH = .fault → s.status.toNat % 256 = 0x1f ∨ s.status.toNat % 256 = 0x2f ∨ s.status.toNat % 256 = 0x3f)

/-- R25: stale and never written data is never read. Two consistent states with the same control state, the same host
events and the same live data give the same responses and control for ever, whatever the rest of `r`, `H`, `W`, `B`
holds. -/
def Obligations.StaleDataIsNeverRead : Prop :=
  ∀ s t s' : State, s.consistent = true → s.sameControl t → s.sameLive t →
    t.pending = s.pending → t.responses = s.responses → step s = .next s' →
    ∃ t', step t = .next t' ∧ s'.sameControl t' ∧ s'.sameLive t' ∧
      t'.pending = s'.pending ∧ t'.responses = s'.responses

/-- R23: the tables are the fractional parts of the square roots of the first 8 and the cube roots of the first 64
primes (log 9). -/
def Obligations.ConstantsAreFractionsOfPrimeRoots : Prop :=
  ∃ primes : List Nat, primes.length = 64 ∧ (∀ p, p ∈ primes ↔ Nat.Prime p ∧ p < 312) ∧ primes.Pairwise (· < ·) ∧
    (∀ i : Fin 8, ∃ c : Nat, c ^ 2 ≤ primes.getD i.val 0 * 2 ^ 64 ∧ primes.getD i.val 0 * 2 ^ 64 < (c + 1) ^ 2 ∧
      (Config.IV i).toNat = c % 2 ^ 32) ∧
    ∀ t : Fin 64, ∃ c : Nat, c ^ 3 ≤ primes.getD t.val 0 * 2 ^ 96 ∧ primes.getD t.val 0 * 2 ^ 96 < (c + 1) ^ 3 ∧
      (Config.K t).toNat = c % 2 ^ 32

/-! ## 20_memory.md: the buffer primitives, and control that no data steers -/

/-- R42: what MemRead reads, byte by byte; what MemWrite writes, byte by byte, and that it writes nothing else; that
MemRead gives back what MemWrite wrote. -/
def Obligations.MemReadReturnsWhatMemWriteWrote : Prop :=
  ∀ (b : Vector Byte 64) (a n : Nat) (v : BitVec (8 * n)) (h : a + n ≤ 64),
    memRead (memWrite b a n v) a n h = v ∧
    (∀ i, (hi : i < n) → (memRead b a n h).toNat / 256 ^ (n - 1 - i) % 256 = (b[a + i]'(by omega)).toNat) ∧
    (∀ k : Fin 64, a ≤ k.val → k.val < a + n →
      (memWrite b a n v)[k].toNat = v.toNat / 256 ^ (n - 1 - (k.val - a)) % 256) ∧
    ∀ k : Fin 64, k.val < a ∨ a + n ≤ k.val → (memWrite b a n v)[k] = b[k]

/-- R48: no data value changes which instruction runs next. Two states with the same control state, any data, and host
events that differ at most in the bytes pushed, step to states of the same kind, or both stop. -/
def Obligations.DataNeverSteersControl : Prop :=
  ∀ s t : State, s.sameControl t → List.Forall₂ HostEvent.sameShape s.pending t.pending →
    (∀ s', step s = .next s' →
      ∃ t', step t = .next t' ∧ s'.sameControl t' ∧ List.Forall₂ HostEvent.sameShape s'.pending t'.pending) ∧
    ∀ f, step s = .fault f → step t = .fault f

/-! ## 40_word_functions.md -/

/-- R81: bit by bit and by number. -/
def Obligations.RotationIsCircular : Prop :=
  ∀ (x : Word) (n : Nat), 1 ≤ n → n ≤ 31 →
    (∀ i, i < 32 → (rotr x n).getLsbD i = x.getLsbD ((i + n) % 32)) ∧
    (rotr x n).toNat = x.toNat / 2 ^ n + x.toNat % 2 ^ n * 2 ^ (32 - n)

/-- R82, R84, R85: the shift by number, choose and majority bit by bit. -/
def Obligations.ShiftChooseAndMajority : Prop :=
  ∀ x y z : Word,
    (shr x 3).toNat = x.toNat / 2 ^ 3 ∧ (shr x 10).toNat = x.toNat / 2 ^ 10 ∧
    ∀ i, i < 32 →
      (ch x y z).getLsbD i = (if x.getLsbD i then y.getLsbD i else z.getLsbD i) ∧
      (maj x y z).getLsbD i = decide (2 ≤ [x.getLsbD i, y.getLsbD i, z.getLsbD i].count true)

/-- R86 to R89: every bit of the four mixing functions; a shifted-out bit of SSIG0 and SSIG1 is 0. -/
def Obligations.MixingFunctionsBitByBit : Prop :=
  ∀ (x : Word) (i : Nat), i < 32 →
    (bsig0 x).getLsbD i =
      (x.getLsbD ((i + 2) % 32) ^^ x.getLsbD ((i + 13) % 32) ^^ x.getLsbD ((i + 22) % 32)) ∧
    (bsig1 x).getLsbD i =
      (x.getLsbD ((i + 6) % 32) ^^ x.getLsbD ((i + 11) % 32) ^^ x.getLsbD ((i + 25) % 32)) ∧
    (ssig0 x).getLsbD i =
      (x.getLsbD ((i + 7) % 32) ^^ x.getLsbD ((i + 18) % 32) ^^ (decide (i + 3 < 32) && x.getLsbD (i + 3))) ∧
    (ssig1 x).getLsbD i =
      (x.getLsbD ((i + 17) % 32) ^^ x.getLsbD ((i + 19) % 32) ^^ (decide (i + 10 < 32) && x.getLsbD (i + 10)))

/-! ## 41_preprocessor.md -/

/-- R102, R103: the byte form of the padded stream is its bit form, the number of zero bits is the smallest, and the
lengths. -/
def Obligations.PaddedStreamInBytesIsTheBitStream : Prop :=
  ∀ m : List Byte,
    (Reference.pad m).flatMap Reference.byteBits = Reference.paddedBits m ∧
    (8 * m.length + 1 + Reference.zeroBits m.length) % 512 = 448 ∧
    (∀ k, (8 * m.length + 1 + k) % 512 = 448 → Reference.zeroBits m.length ≤ k) ∧
    Reference.zeroBits m.length = 8 * Reference.zeroBytes m.length + 7 ∧
    Reference.zeroBytes m.length ≤ 63 ∧ (Reference.zeroBytes m.length = 0 ↔ m.length % 64 = 55) ∧
    (Reference.zeroBytes m.length = 63 ↔ m.length % 64 = 56) ∧ (Reference.paddedBits m).length % 512 = 0 ∧
    (Reference.pad m).length = m.length + 1 + Reference.zeroBytes m.length + 8 ∧ (Reference.pad m).length % 64 = 0

/-- R105 with R103: the block count, and that the blocks cut the padded stream exactly. -/
def Obligations.BlocksCutThePaddedStream : Prop :=
  ∀ m : List Byte,
    Reference.blockCount m.length = m.length / 64 + 1 + (if 56 ≤ m.length % 64 then 1 else 0) ∧
    (Reference.pad m).length = 64 * Reference.blockCount m.length ∧
    (Reference.blocks m).flatMap Vector.toList = Reference.pad m

/-- R110: from the state INIT leaves, the blocks handed to the scheduler while a message is pushed and finalised are the
blocks of the padded message, in order, and the engine ends in DONE. -/
def Obligations.PushedMessageIsHandedOverInPaddedBlocks : Prop :=
  ∀ (s : State) (m : List Byte), s.PH = .absorb → s.N = 0 → s.LEN = 0 → s.PADST = .none → m.length < 2 ^ 61 →
    s.pending = Assembler.hostEvents (Assembler.pushes m ++ [.final]) →
    blocksHandedOver (trace (m.length + 1 + Reference.sequencerSteps m.length) s) = Reference.blocks m ∧
    ∃ t, run (m.length + 1 + Reference.sequencerSteps m.length) s = .next t ∧ t.PH = .done

/-! ## 42_scheduler.md, 43_compressor.md -/

/-- R123: 64 steps from the entry of WLOAD compute the schedule of the block, and change nothing else. -/
def Obligations.ScheduleRunComputesExpand : Prop :=
  ∀ s : State, s.PH = .wload → s.T = 0 → s.hostHolds = true →
    run 64 s = .next { s with W := Reference.expand s.B, PH := .rload, T := 0 }

/-- R135: 66 steps from the entry of RLOAD compress the schedule into the digest, and 130 steps from the entry of WLOAD
the block. -/
def Obligations.BlockRunComputesCompress : Prop :=
  ∀ s : State, s.PADST ≠ .first → s.hostHolds = true → s.T = 0 →
    (s.PH = .rload → ∃ t, run 66 s = .next t ∧ t.H = Reference.compress s.W s.H ∧ t.W = s.W ∧ t.B = s.B) ∧
    (s.PH = .wload →
      ∃ t, run 130 s = .next t ∧ t.H = Reference.compress (Reference.expand s.B) s.H ∧ t.B = s.B ∧ t.N = s.N ∧
        t.LEN = s.LEN ∧ t.ECODE = s.ECODE ∧ t.responses = s.responses ∧ s.sameHost t)

/-! ## 44_driver_and_commands.md, part 4 -/

/-- R165: every busy period runs the stated micro-operations, in order, and ends after exactly the stated number of
steps. -/
def Obligations.BusyPeriodsEndOnTime : Prop :=
  ∀ s : State, s.consistent = true → s.hostHolds = true →
    (s.PH = .wload → s.T = 0 → s.PADST = .none →
      (∃ t, run 130 s = .next t ∧ t.PH = .absorb) ∧
      ∀ k, k < 130 → ∃ u, run k s = .next u ∧ u.PH = blockPhase k) ∧
    (s.PH = .pad → s.PADST = .first → s.N.toNat ≤ 55 →
      (∃ t, run 131 s = .next t ∧ t.PH = .done) ∧
      ∀ k, k < 131 → ∃ u, run k s = .next u ∧ u.PH = if k = 0 then .pad else blockPhase (k - 1)) ∧
    (s.PH = .pad → s.PADST = .first → 56 ≤ s.N.toNat →
      (∃ t, run 262 s = .next t ∧ t.PH = .done) ∧
      ∀ k, k < 262 → ∃ u, run k s = .next u ∧ u.PH = if k % 131 = 0 then .pad else blockPhase (k % 131 - 1))

/-- R163: a transaction computes the hash: INIT, the pushes, FINAL, each held while the engine is busy, end in DONE with
the digest words in `H`; the word reads then answer the digest words and the byte reads `hash(m)`. No fault is raised on
the way. -/
def Obligations.TransactionComputesTheHash : Prop :=
  ∀ (s : State) (m : List Byte) (n : Nat), s.ready = true → s.PH ≠ .fault → m.length < 2 ^ 61 →
    s.pending = transaction m ++ Assembler.hostEvents (Assembler.rddigCommands ++ Assembler.rdhexCommands) →
    n = m.length + 2 + Reference.sequencerSteps m.length →
    (∃ t, run n s = .next t ∧ t.PH = .done ∧ t.H = Reference.hashWords m) ∧
    (∀ k, k ≤ n + 40 → ∃ u, run k s = .next u ∧ u.PH ≠ .fault) ∧
    ∃ t, run (n + 40) s = .next t ∧ t.PH = .done ∧ t.pending = [] ∧
      ∃ d, Reference.hash m = some d ∧ d = Reference.serialize (Reference.hashWords m) ∧
        t.responses.drop (s.responses.length + m.length + 2) =
          (Reference.hashWords m).toList ++ d.toList.map (·.zeroExtend 32)

/-- R164: the digest depends on the bytes pushed since INIT alone: from any state of any ready phase but FAULT, with any
STAT commands and waits put between the commands. -/
def Obligations.DigestIgnoresHistoryWaitsAndStatus : Prop :=
  ∀ (s : State) (m : List Byte), s.ready = true → s.PH ≠ .fault → m.length < 2 ^ 61 →
    s.pending.filter HostEvent.matters = transaction m →
    ∃ n t, run n s = .next t ∧ t.pending = [] ∧ t.PH = .done ∧ t.H = Reference.hashWords m

/-- R205, R206, R23 of 92 (D23): in DONE the digest stays until INIT, SRST, a fault or the hardware reset. -/
def Obligations.DigestStaysUntilItIsGivenUp : Prop :=
  ∀ s t : State, s.PH = .done → step s = .next t →
    (t.PH = .done ∧ t.H = s.H) ∨
    (∃ c rest, s.pending = .command c :: rest ∧ (c = 0x1000 ∨ c = 0xF000 ∨ faultOf c s ≠ .enone)) ∨
    ∃ rest, s.pending = .reset :: rest

/-! ## 60_exceptions.md, 70_reset_and_hazards.md -/

/-- R184, R185: a transfer raises the one fault of its priority, precisely, or none; in FAULT it raises none. -/
def Obligations.TransferRaisesTheFaultOfItsPriority : Prop :=
  ∀ (s : State) (c : BitVec 16) (rest : List HostEvent), s.ready = true → s.pending = .command c :: rest →
    ∃ t, step s = .next t ∧
      (s.PH = .fault → c ≠ 0xF000 → t.ECODE = s.ECODE ∧ s.sameData t) ∧
      (s.PH ≠ .fault → faultOf c s = .enone → t.PH ≠ .fault ∧ (c ≠ 0xF000 → t.ECODE = s.ECODE)) ∧
      (s.PH ≠ .fault → faultOf c s ≠ .enone → { s with pending := rest }.entersFault t (faultOf c s))

/-- R180, R192: only the transfer of a command raises a fault, never a micro-operation, a wait or a reset. -/
def Obligations.OnlyTransfersRaiseFaults : Prop :=
  ∀ s t : State, s.PH ≠ .fault → step s = .next t → t.PH = .fault →
    s.ready = true ∧ ∃ c rest, s.pending = .command c :: rest ∧ faultOf c s ≠ .enone ∧ t.ECODE = faultOf c s

/-- R186: in FAULT, SRST resets and every other word is discarded, with STATUS as response. -/
def Obligations.FaultPhaseDiscardsAllButSrst : Prop :=
  ∀ (s : State) (c : BitVec 16) (rest : List HostEvent), s.PH = .fault → s.pending = .command c :: rest →
    (c ≠ 0xF000 → step s = .next { s with pending := rest, responses := s.responses ++ [s.status] }) ∧
    (c = 0xF000 → ∃ t, step s = .next t ∧ s.controlIsReset t ∧ t.responses = s.responses ++ [0x00000000] ∧
      t.pending = rest)

/-- R187: FAULT is left only by SRST or by the hardware reset, to IDLE with no fault; until then the first fault's code
and everything else of the engine stays. -/
def Obligations.FaultStaysUntilReset : Prop :=
  ∀ s t : State, s.PH = .fault → step s = .next t →
    (s.sameControl t ∧ s.sameData t) ∨
    (t.PH = .idle ∧ t.ECODE = .enone ∧
      ((∃ rest, s.pending = .command 0xF000 :: rest) ∨ ∃ rest, s.pending = .reset :: rest))

/-- R200: the hardware reset, in any phase, for the control state and the host side. The data state after it is free: see
`HardwareResetLeavesNoOldData`. -/
def Obligations.HardwareResetActsInAnyPhase : Prop :=
  ∀ (s : State) (rest : List HostEvent), s.pending = .reset :: rest →
    ∃ t, step s = .next t ∧ t.PH = .idle ∧ t.T = 0 ∧ t.N = 0 ∧ t.LEN = 0 ∧ t.PADST = .none ∧ t.ECODE = .enone ∧
      t.status = 0x00000000 ∧ t.ready = true ∧ t.done = false ∧ t.err = false ∧ t.pending = rest ∧
      t.responses = s.responses

/-- R200: what the data state was before a reset has no influence on what it is after it. That the free values are picked
by the number of resets is the model's choice (log 1). -/
def Obligations.HardwareResetLeavesNoOldData : Prop :=
  ∀ (s t s' t' : State) (rest rest' : List HostEvent), s.pending = .reset :: rest → t.pending = .reset :: rest' →
    s.resets = t.resets → step s = .next s' → step t = .next t' → s'.sameData t' ∧ s'.sameControl t'

/-- R201, R25: after a soft reset as after a hardware reset, whatever data the engine holds, a host sees the same for
ever: the same responses and the same control state. -/
def Obligations.ResetsLookAlikeToTheHost : Prop :=
  ∀ (n : Nat) (s t : State), s.PH = .idle → s.T = 0 → s.N = 0 → s.LEN = 0 → s.PADST = .none → s.ECODE = .enone →
    s.sameControl t → t.pending = s.pending → t.responses = s.responses →
    ∃ s' t', run n s = .next s' ∧ run n t = .next t' ∧ s'.sameControl t' ∧ t'.responses = s'.responses
end

