-- ==== Sys2Proof/Laws/State.lean ====
section
/-! SUPPORT. Each field after each state update, so that no proof unfolds a record update. -/

namespace Sys2Proof.Machine

/-! ### `State.setSeq` -/

@[simp] theorem State.setSeq_r (s : State) (p : Phase) (t : BitVec 6) : (s.setSeq p t).r = s.r := rfl
@[simp] theorem State.setSeq_H (s : State) (p : Phase) (t : BitVec 6) : (s.setSeq p t).H = s.H := rfl
@[simp] theorem State.setSeq_W (s : State) (p : Phase) (t : BitVec 6) : (s.setSeq p t).W = s.W := rfl
@[simp] theorem State.setSeq_B (s : State) (p : Phase) (t : BitVec 6) : (s.setSeq p t).B = s.B := rfl
@[simp] theorem State.setSeq_N (s : State) (p : Phase) (t : BitVec 6) : (s.setSeq p t).N = s.N := rfl
@[simp] theorem State.setSeq_LEN (s : State) (p : Phase) (t : BitVec 6) : (s.setSeq p t).LEN = s.LEN := rfl
@[simp] theorem State.setSeq_PH (s : State) (p : Phase) (t : BitVec 6) : (s.setSeq p t).PH = p := rfl
@[simp] theorem State.setSeq_T (s : State) (p : Phase) (t : BitVec 6) : (s.setSeq p t).T = t := rfl
@[simp] theorem State.setSeq_PADST (s : State) (p : Phase) (t : BitVec 6) : (s.setSeq p t).PADST = s.PADST := rfl
@[simp] theorem State.setSeq_ECODE (s : State) (p : Phase) (t : BitVec 6) : (s.setSeq p t).ECODE = s.ECODE := rfl
@[simp] theorem State.setSeq_pending (s : State) (p : Phase) (t : BitVec 6) : (s.setSeq p t).pending = s.pending := rfl
@[simp] theorem State.setSeq_responses (s : State) (p : Phase) (t : BitVec 6) : (s.setSeq p t).responses = s.responses := rfl
@[simp] theorem State.setSeq_resets (s : State) (p : Phase) (t : BitVec 6) : (s.setSeq p t).resets = s.resets := rfl

/-! ### `State.respond` -/

@[simp] theorem State.respond_r (s : State) (v : Word) : (s.respond v).r = s.r := rfl
@[simp] theorem State.respond_H (s : State) (v : Word) : (s.respond v).H = s.H := rfl
@[simp] theorem State.respond_W (s : State) (v : Word) : (s.respond v).W = s.W := rfl
@[simp] theorem State.respond_B (s : State) (v : Word) : (s.respond v).B = s.B := rfl
@[simp] theorem State.respond_N (s : State) (v : Word) : (s.respond v).N = s.N := rfl
@[simp] theorem State.respond_LEN (s : State) (v : Word) : (s.respond v).LEN = s.LEN := rfl
@[simp] theorem State.respond_PH (s : State) (v : Word) : (s.respond v).PH = s.PH := rfl
@[simp] theorem State.respond_T (s : State) (v : Word) : (s.respond v).T = s.T := rfl
@[simp] theorem State.respond_PADST (s : State) (v : Word) : (s.respond v).PADST = s.PADST := rfl
@[simp] theorem State.respond_ECODE (s : State) (v : Word) : (s.respond v).ECODE = s.ECODE := rfl
@[simp] theorem State.respond_pending (s : State) (v : Word) : (s.respond v).pending = s.pending := rfl
@[simp] theorem State.respond_responses (s : State) (v : Word) : (s.respond v).responses = s.responses ++ [v] := rfl
@[simp] theorem State.respond_resets (s : State) (v : Word) : (s.respond v).resets = s.resets := rfl

/-! ### `State.respondStatus` -/

@[simp] theorem State.respondStatus_r (s : State) : (s.respondStatus).r = s.r := rfl
@[simp] theorem State.respondStatus_H (s : State) : (s.respondStatus).H = s.H := rfl
@[simp] theorem State.respondStatus_W (s : State) : (s.respondStatus).W = s.W := rfl
@[simp] theorem State.respondStatus_B (s : State) : (s.respondStatus).B = s.B := rfl
@[simp] theorem State.respondStatus_N (s : State) : (s.respondStatus).N = s.N := rfl
@[simp] theorem State.respondStatus_LEN (s : State) : (s.respondStatus).LEN = s.LEN := rfl
@[simp] theorem State.respondStatus_PH (s : State) : (s.respondStatus).PH = s.PH := rfl
@[simp] theorem State.respondStatus_T (s : State) : (s.respondStatus).T = s.T := rfl
@[simp] theorem State.respondStatus_PADST (s : State) : (s.respondStatus).PADST = s.PADST := rfl
@[simp] theorem State.respondStatus_ECODE (s : State) : (s.respondStatus).ECODE = s.ECODE := rfl
@[simp] theorem State.respondStatus_pending (s : State) : (s.respondStatus).pending = s.pending := rfl
@[simp] theorem State.respondStatus_responses (s : State) : (s.respondStatus).responses = s.responses ++ [s.status] := rfl
@[simp] theorem State.respondStatus_resets (s : State) : (s.respondStatus).resets = s.resets := rfl

/-! ### `State.raiseFault` -/

@[simp] theorem State.raiseFault_r (s : State) (e : ErrorCode) : (s.raiseFault e).r = s.r := rfl
@[simp] theorem State.raiseFault_H (s : State) (e : ErrorCode) : (s.raiseFault e).H = s.H := rfl
@[simp] theorem State.raiseFault_W (s : State) (e : ErrorCode) : (s.raiseFault e).W = s.W := rfl
@[simp] theorem State.raiseFault_B (s : State) (e : ErrorCode) : (s.raiseFault e).B = s.B := rfl
@[simp] theorem State.raiseFault_N (s : State) (e : ErrorCode) : (s.raiseFault e).N = s.N := rfl
@[simp] theorem State.raiseFault_LEN (s : State) (e : ErrorCode) : (s.raiseFault e).LEN = s.LEN := rfl
@[simp] theorem State.raiseFault_PH (s : State) (e : ErrorCode) : (s.raiseFault e).PH = .fault := rfl
@[simp] theorem State.raiseFault_T (s : State) (e : ErrorCode) : (s.raiseFault e).T = s.T := rfl
@[simp] theorem State.raiseFault_PADST (s : State) (e : ErrorCode) : (s.raiseFault e).PADST = s.PADST := rfl
@[simp] theorem State.raiseFault_ECODE (s : State) (e : ErrorCode) : (s.raiseFault e).ECODE = e := rfl
@[simp] theorem State.raiseFault_pending (s : State) (e : ErrorCode) : (s.raiseFault e).pending = s.pending := rfl
@[simp] theorem State.raiseFault_responses (s : State) (e : ErrorCode) : (s.raiseFault e).responses = s.responses ++ [({ s with ECODE := e }.setSeq .fault s.T).status] := rfl
@[simp] theorem State.raiseFault_resets (s : State) (e : ErrorCode) : (s.raiseFault e).resets = s.resets := rfl

/-! ### `State.controlReset` -/

@[simp] theorem State.controlReset_r (s : State) : (s.controlReset).r = s.r := rfl
@[simp] theorem State.controlReset_H (s : State) : (s.controlReset).H = s.H := rfl
@[simp] theorem State.controlReset_W (s : State) : (s.controlReset).W = s.W := rfl
@[simp] theorem State.controlReset_B (s : State) : (s.controlReset).B = s.B := rfl
@[simp] theorem State.controlReset_N (s : State) : (s.controlReset).N = 0 := rfl
@[simp] theorem State.controlReset_LEN (s : State) : (s.controlReset).LEN = 0 := rfl
@[simp] theorem State.controlReset_PH (s : State) : (s.controlReset).PH = .idle := rfl
@[simp] theorem State.controlReset_T (s : State) : (s.controlReset).T = 0 := rfl
@[simp] theorem State.controlReset_PADST (s : State) : (s.controlReset).PADST = .none := rfl
@[simp] theorem State.controlReset_ECODE (s : State) : (s.controlReset).ECODE = .enone := rfl
@[simp] theorem State.controlReset_pending (s : State) : (s.controlReset).pending = s.pending := rfl
@[simp] theorem State.controlReset_responses (s : State) : (s.controlReset).responses = s.responses := rfl
@[simp] theorem State.controlReset_resets (s : State) : (s.controlReset).resets = s.resets := rfl

/-! ### `freeData` -/

@[simp] theorem freeData_r (s : State) (k : Nat) : (freeData s k).r = Vector.ofFn fun i => Config.freeR k i.val := rfl
@[simp] theorem freeData_H (s : State) (k : Nat) : (freeData s k).H = Vector.ofFn fun i => Config.freeH k i.val := rfl
@[simp] theorem freeData_W (s : State) (k : Nat) : (freeData s k).W = Vector.ofFn fun i => Config.freeW k i.val := rfl
@[simp] theorem freeData_B (s : State) (k : Nat) : (freeData s k).B = Vector.ofFn fun i => Config.freeB k i.val := rfl
@[simp] theorem freeData_N (s : State) (k : Nat) : (freeData s k).N = s.N := rfl
@[simp] theorem freeData_LEN (s : State) (k : Nat) : (freeData s k).LEN = s.LEN := rfl
@[simp] theorem freeData_PH (s : State) (k : Nat) : (freeData s k).PH = s.PH := rfl
@[simp] theorem freeData_T (s : State) (k : Nat) : (freeData s k).T = s.T := rfl
@[simp] theorem freeData_PADST (s : State) (k : Nat) : (freeData s k).PADST = s.PADST := rfl
@[simp] theorem freeData_ECODE (s : State) (k : Nat) : (freeData s k).ECODE = s.ECODE := rfl
@[simp] theorem freeData_pending (s : State) (k : Nat) : (freeData s k).pending = s.pending := rfl
@[simp] theorem freeData_responses (s : State) (k : Nat) : (freeData s k).responses = s.responses := rfl
@[simp] theorem freeData_resets (s : State) (k : Nat) : (freeData s k).resets = s.resets := rfl

/-! ### `State.hardwareReset` -/

@[simp] theorem State.hardwareReset_r (s : State) : (s.hardwareReset).r = Vector.ofFn fun i => Config.freeR (s.resets + 1) i.val := rfl
@[simp] theorem State.hardwareReset_H (s : State) : (s.hardwareReset).H = Vector.ofFn fun i => Config.freeH (s.resets + 1) i.val := rfl
@[simp] theorem State.hardwareReset_W (s : State) : (s.hardwareReset).W = Vector.ofFn fun i => Config.freeW (s.resets + 1) i.val := rfl
@[simp] theorem State.hardwareReset_B (s : State) : (s.hardwareReset).B = Vector.ofFn fun i => Config.freeB (s.resets + 1) i.val := rfl
@[simp] theorem State.hardwareReset_N (s : State) : (s.hardwareReset).N = 0 := rfl
@[simp] theorem State.hardwareReset_LEN (s : State) : (s.hardwareReset).LEN = 0 := rfl
@[simp] theorem State.hardwareReset_PH (s : State) : (s.hardwareReset).PH = .idle := rfl
@[simp] theorem State.hardwareReset_T (s : State) : (s.hardwareReset).T = 0 := rfl
@[simp] theorem State.hardwareReset_PADST (s : State) : (s.hardwareReset).PADST = .none := rfl
@[simp] theorem State.hardwareReset_ECODE (s : State) : (s.hardwareReset).ECODE = .enone := rfl
@[simp] theorem State.hardwareReset_pending (s : State) : (s.hardwareReset).pending = s.pending := rfl
@[simp] theorem State.hardwareReset_responses (s : State) : (s.hardwareReset).responses = s.responses := rfl
@[simp] theorem State.hardwareReset_resets (s : State) : (s.hardwareReset).resets = s.resets + 1 := rfl

/-! ### `writeW` -/

@[simp] theorem writeW_r (s : State) (t : BitVec 6) (v : Word) : (writeW s t v).r = s.r := rfl
@[simp] theorem writeW_H (s : State) (t : BitVec 6) (v : Word) : (writeW s t v).H = s.H := rfl
@[simp] theorem writeW_W (s : State) (t : BitVec 6) (v : Word) : (writeW s t v).W = s.W.set (index64 t) v := rfl
@[simp] theorem writeW_B (s : State) (t : BitVec 6) (v : Word) : (writeW s t v).B = s.B := rfl
@[simp] theorem writeW_N (s : State) (t : BitVec 6) (v : Word) : (writeW s t v).N = s.N := rfl
@[simp] theorem writeW_LEN (s : State) (t : BitVec 6) (v : Word) : (writeW s t v).LEN = s.LEN := rfl
@[simp] theorem writeW_PH (s : State) (t : BitVec 6) (v : Word) : (writeW s t v).PH = s.PH := rfl
@[simp] theorem writeW_T (s : State) (t : BitVec 6) (v : Word) : (writeW s t v).T = s.T := rfl
@[simp] theorem writeW_PADST (s : State) (t : BitVec 6) (v : Word) : (writeW s t v).PADST = s.PADST := rfl
@[simp] theorem writeW_ECODE (s : State) (t : BitVec 6) (v : Word) : (writeW s t v).ECODE = s.ECODE := rfl
@[simp] theorem writeW_pending (s : State) (t : BitVec 6) (v : Word) : (writeW s t v).pending = s.pending := rfl
@[simp] theorem writeW_responses (s : State) (t : BitVec 6) (v : Word) : (writeW s t v).responses = s.responses := rfl
@[simp] theorem writeW_resets (s : State) (t : BitVec 6) (v : Word) : (writeW s t v).resets = s.resets := rfl

/-! ### `feedForward` -/

@[simp] theorem feedForward_r (s : State) : (feedForward s).r = s.r := rfl
@[simp] theorem feedForward_H (s : State) : (feedForward s).H = Vector.ofFn fun i => s.H[i] + s.r[i] := rfl
@[simp] theorem feedForward_W (s : State) : (feedForward s).W = s.W := rfl
@[simp] theorem feedForward_B (s : State) : (feedForward s).B = s.B := rfl
@[simp] theorem feedForward_N (s : State) : (feedForward s).N = s.N := rfl
@[simp] theorem feedForward_LEN (s : State) : (feedForward s).LEN = s.LEN := rfl
@[simp] theorem feedForward_PH (s : State) : (feedForward s).PH = s.PH := rfl
@[simp] theorem feedForward_T (s : State) : (feedForward s).T = s.T := rfl
@[simp] theorem feedForward_PADST (s : State) : (feedForward s).PADST = s.PADST := rfl
@[simp] theorem feedForward_ECODE (s : State) : (feedForward s).ECODE = s.ECODE := rfl
@[simp] theorem feedForward_pending (s : State) : (feedForward s).pending = s.pending := rfl
@[simp] theorem feedForward_responses (s : State) : (feedForward s).responses = s.responses := rfl
@[simp] theorem feedForward_resets (s : State) : (feedForward s).resets = s.resets := rfl

/-! ### `loadIV` -/

@[simp] theorem loadIV_r (s : State) : (loadIV s).r = s.r := rfl
@[simp] theorem loadIV_H (s : State) : (loadIV s).H = Vector.ofFn Config.IV := rfl
@[simp] theorem loadIV_W (s : State) : (loadIV s).W = s.W := rfl
@[simp] theorem loadIV_B (s : State) : (loadIV s).B = s.B := rfl
@[simp] theorem loadIV_N (s : State) : (loadIV s).N = s.N := rfl
@[simp] theorem loadIV_LEN (s : State) : (loadIV s).LEN = s.LEN := rfl
@[simp] theorem loadIV_PH (s : State) : (loadIV s).PH = s.PH := rfl
@[simp] theorem loadIV_T (s : State) : (loadIV s).T = s.T := rfl
@[simp] theorem loadIV_PADST (s : State) : (loadIV s).PADST = s.PADST := rfl
@[simp] theorem loadIV_ECODE (s : State) : (loadIV s).ECODE = s.ECODE := rfl
@[simp] theorem loadIV_pending (s : State) : (loadIV s).pending = s.pending := rfl
@[simp] theorem loadIV_responses (s : State) : (loadIV s).responses = s.responses := rfl
@[simp] theorem loadIV_resets (s : State) : (loadIV s).resets = s.resets := rfl

/-! ### `padMore` -/

@[simp] theorem padMore_r (s : State) : (padMore s).r = s.r := by
  unfold padMore; dsimp only
@[simp] theorem padMore_H (s : State) : (padMore s).H = s.H := by
  unfold padMore; dsimp only
@[simp] theorem padMore_W (s : State) : (padMore s).W = s.W := by
  unfold padMore; dsimp only
@[simp] theorem padMore_B (s : State) : (padMore s).B = memWrite (zeroFill s.B 0 56) 56 8 s.LEN := by
  unfold padMore; dsimp only
@[simp] theorem padMore_N (s : State) : (padMore s).N = s.N := by
  unfold padMore; dsimp only
@[simp] theorem padMore_LEN (s : State) : (padMore s).LEN = s.LEN := by
  unfold padMore; dsimp only
@[simp] theorem padMore_PH (s : State) : (padMore s).PH = s.PH := by
  unfold padMore; dsimp only
@[simp] theorem padMore_T (s : State) : (padMore s).T = s.T := by
  unfold padMore; dsimp only
@[simp] theorem padMore_PADST (s : State) : (padMore s).PADST = .last := by
  unfold padMore; dsimp only
@[simp] theorem padMore_ECODE (s : State) : (padMore s).ECODE = s.ECODE := by
  unfold padMore; dsimp only
@[simp] theorem padMore_pending (s : State) : (padMore s).pending = s.pending := by
  unfold padMore; dsimp only
@[simp] theorem padMore_responses (s : State) : (padMore s).responses = s.responses := by
  unfold padMore; dsimp only
@[simp] theorem padMore_resets (s : State) : (padMore s).resets = s.resets := by
  unfold padMore; dsimp only

/-! ### `padDone` -/

@[simp] theorem padDone_r (s : State) : (padDone s).r = s.r := rfl
@[simp] theorem padDone_H (s : State) : (padDone s).H = s.H := rfl
@[simp] theorem padDone_W (s : State) : (padDone s).W = s.W := rfl
@[simp] theorem padDone_B (s : State) : (padDone s).B = s.B := rfl
@[simp] theorem padDone_N (s : State) : (padDone s).N = 0 := rfl
@[simp] theorem padDone_LEN (s : State) : (padDone s).LEN = s.LEN := rfl
@[simp] theorem padDone_PH (s : State) : (padDone s).PH = .wload := rfl
@[simp] theorem padDone_T (s : State) : (padDone s).T = 0 := rfl
@[simp] theorem padDone_PADST (s : State) : (padDone s).PADST = s.PADST := rfl
@[simp] theorem padDone_ECODE (s : State) : (padDone s).ECODE = s.ECODE := rfl
@[simp] theorem padDone_pending (s : State) : (padDone s).pending = s.pending := rfl
@[simp] theorem padDone_responses (s : State) : (padDone s).responses = s.responses := rfl
@[simp] theorem padDone_resets (s : State) : (padDone s).resets = s.resets := rfl

/-! ### `padFirst` -/

@[simp] theorem padFirst_r (s : State) : (padFirst s).r = s.r := by
  unfold padFirst; dsimp only; split <;> dsimp only
@[simp] theorem padFirst_H (s : State) : (padFirst s).H = s.H := by
  unfold padFirst; dsimp only; split <;> dsimp only
@[simp] theorem padFirst_W (s : State) : (padFirst s).W = s.W := by
  unfold padFirst; dsimp only; split <;> dsimp only
@[simp] theorem padFirst_N (s : State) : (padFirst s).N = s.N := by
  unfold padFirst; dsimp only; split <;> dsimp only
@[simp] theorem padFirst_LEN (s : State) : (padFirst s).LEN = s.LEN := by
  unfold padFirst; dsimp only; split <;> dsimp only
@[simp] theorem padFirst_PH (s : State) : (padFirst s).PH = s.PH := by
  unfold padFirst; dsimp only; split <;> dsimp only
@[simp] theorem padFirst_T (s : State) : (padFirst s).T = s.T := by
  unfold padFirst; dsimp only; split <;> dsimp only
@[simp] theorem padFirst_ECODE (s : State) : (padFirst s).ECODE = s.ECODE := by
  unfold padFirst; dsimp only; split <;> dsimp only
@[simp] theorem padFirst_pending (s : State) : (padFirst s).pending = s.pending := by
  unfold padFirst; dsimp only; split <;> dsimp only
@[simp] theorem padFirst_responses (s : State) : (padFirst s).responses = s.responses := by
  unfold padFirst; dsimp only; split <;> dsimp only
@[simp] theorem padFirst_resets (s : State) : (padFirst s).resets = s.resets := by
  unfold padFirst; dsimp only; split <;> dsimp only
@[simp] theorem padFirst_PADST (s : State) : (padFirst s).PADST = if s.N.toNat ≤ 55 then .last else .more := by
  unfold padFirst; dsimp only; split <;> dsimp only

/-! ### `appendByte` -/

@[simp] theorem appendByte_r (s : State) (d : Byte) : (appendByte s d).r = s.r := by
  unfold appendByte; dsimp only; split <;> dsimp only [State.setSeq]
@[simp] theorem appendByte_H (s : State) (d : Byte) : (appendByte s d).H = s.H := by
  unfold appendByte; dsimp only; split <;> dsimp only [State.setSeq]
@[simp] theorem appendByte_W (s : State) (d : Byte) : (appendByte s d).W = s.W := by
  unfold appendByte; dsimp only; split <;> dsimp only [State.setSeq]
@[simp] theorem appendByte_PADST (s : State) (d : Byte) : (appendByte s d).PADST = s.PADST := by
  unfold appendByte; dsimp only; split <;> dsimp only [State.setSeq]
@[simp] theorem appendByte_ECODE (s : State) (d : Byte) : (appendByte s d).ECODE = s.ECODE := by
  unfold appendByte; dsimp only; split <;> dsimp only [State.setSeq]
@[simp] theorem appendByte_pending (s : State) (d : Byte) : (appendByte s d).pending = s.pending := by
  unfold appendByte; dsimp only; split <;> dsimp only [State.setSeq]
@[simp] theorem appendByte_responses (s : State) (d : Byte) : (appendByte s d).responses = s.responses := by
  unfold appendByte; dsimp only; split <;> dsimp only [State.setSeq]
@[simp] theorem appendByte_resets (s : State) (d : Byte) : (appendByte s d).resets = s.resets := by
  unfold appendByte; dsimp only; split <;> dsimp only [State.setSeq]
@[simp] theorem appendByte_B (s : State) (d : Byte) : (appendByte s d).B = memWrite s.B s.N.toNat 1 d := by
  unfold appendByte; dsimp only; split <;> dsimp only [State.setSeq]
@[simp] theorem appendByte_LEN (s : State) (d : Byte) : (appendByte s d).LEN = s.LEN + 8 := by
  unfold appendByte; dsimp only; split <;> dsimp only [State.setSeq]
@[simp] theorem appendByte_N (s : State) (d : Byte) : (appendByte s d).N = if s.N = 63 then 0 else s.N + 1 := by
  unfold appendByte; dsimp only; split <;> dsimp only [State.setSeq]
@[simp] theorem appendByte_PH (s : State) (d : Byte) : (appendByte s d).PH = if s.N = 63 then .wload else s.PH := by
  unfold appendByte; dsimp only; split <;> dsimp only [State.setSeq]
@[simp] theorem appendByte_T (s : State) (d : Byte) : (appendByte s d).T = if s.N = 63 then 0 else s.T := by
  unfold appendByte; dsimp only; split <;> dsimp only [State.setSeq]

end Sys2Proof.Machine
end

