-- ==== Sys2Proof/Laws/Ops.lean ====
section
/-! SUPPORT. One lemma per shared operation: the buffer primitives byte by byte, the frame of a transfer, the level
outputs, what the sequencer selects. -/

namespace Sys2Proof.Machine

/-! ### The level outputs and the selection -/

theorem State.busy_eq_true_iff (s : State) : s.busy = true ↔ s.ready = false := by simp [State.busy]

theorem State.ready_iff (s : State) :
    s.ready = true ↔ s.PH = .idle ∨ s.PH = .absorb ∨ s.PH = .done ∨ s.PH = .fault := by
  unfold State.ready; cases s.PH <;> simp [Phase.ready]

theorem State.busy_iff (s : State) :
    s.busy = true ↔ s.PH = .pad ∨ s.PH = .wload ∨ s.PH = .wexp ∨ s.PH = .rload ∨ s.PH = .round ∨ s.PH = .feed := by
  unfold State.busy State.ready; cases s.PH <;> simp [Phase.ready]

/-- The upper field of a concatenation. -/
theorem extractLsb'_append_upper {m n : Nat} (x : BitVec m) (y : BitVec n) : (x ++ y).extractLsb' n m = x := by
  ext i hi
  rw [BitVec.getElem_extractLsb', BitVec.getLsbD_append, if_neg (by omega), BitVec.getLsbD_eq_getElem (by omega)]
  congr 1
  omega

/-- The lower field of a concatenation. -/
theorem extractLsb'_append_lower {m n : Nat} (x : BitVec m) (y : BitVec n) : (x ++ y).extractLsb' 0 n = y := by
  ext i hi
  rw [BitVec.getElem_extractLsb', BitVec.getLsbD_append, if_pos (by omega), BitVec.getLsbD_eq_getElem (by omega)]
  congr 1
  omega

/-- The two fields of a selection word. -/
theorem selection_fields (s : State) :
    s.selection.extractLsb' 6 4 = s.PH.code ∧ s.selection.extractLsb' 0 6 = s.T :=
  ⟨extractLsb'_append_upper s.PH.code s.T, extractLsb'_append_lower s.PH.code s.T⟩

/-- What the sequencer selects, as a function of the phase (30_encoding.md R66). -/
theorem decodeMicroOp_selection (s : State) :
    decodeMicroOp s.selection =
      match s.PH with
      | .pad => .ok (.padb s.T)
      | .wload => .ok (.wld s.T)
      | .wexp => .ok (.wex s.T)
      | .rload => .ok (.rld s.T)
      | .round => .ok (.rnd s.T)
      | .feed => .ok (.feed s.T)
      | .idle | .absorb | .done | .fault => .error .noMicroOperation := by
  obtain ⟨hp, ht⟩ := selection_fields s
  unfold decodeMicroOp
  rw [hp, ht]
  cases s.PH <;> rfl

/-- The sequencer's step by phase (44_driver_and_commands.md R156). -/
theorem sequencerStep_eq (s : State) :
    sequencerStep s =
      match s.PH with
      | .pad => execPadb s.T s
      | .wload => execWld s.T s
      | .wexp => execWex s.T s
      | .rload => execRld s.T s
      | .round => execRnd s.T s
      | .feed => execFeed s.T s
      | .idle | .absorb | .done | .fault => .next s := by
  unfold sequencerStep
  rw [decodeMicroOp_selection]
  cases s.PH <;> rfl

/-! ### The frame of a transfer -/

theorem onTransfer_ready {s : State} (h : s.ready = true) (body : State → State) : s.onTransfer body = body s := by
  simp [State.onTransfer, State.busy, h]

theorem onTransfer_busy {s : State} (h : s.busy = true) (body : State → State) : s.onTransfer body = s := by
  simp [State.onTransfer, h]

theorem onCommand_busy {s : State} (h : s.busy = true) (body : State → State) : s.onCommand body = s :=
  onTransfer_busy h _

theorem onCommand_fault {s : State} (h : s.PH = .fault) (body : State → State) :
    s.onCommand body = s.respondStatus := by
  rw [State.onCommand, onTransfer_ready (by simp [State.ready, h, Phase.ready]), if_pos h]

theorem onCommand_ready {s : State} (h : s.ready = true) (hf : s.PH ≠ .fault) (body : State → State) :
    s.onCommand body = body s := by
  rw [State.onCommand, onTransfer_ready h, if_neg hf]

/-! ### STATUS is a function of PH, ECODE and N -/

theorem status_congr {s t : State} (hp : s.PH = t.PH) (he : s.ECODE = t.ECODE) (hn : s.N = t.N) :
    s.status = t.status := by
  simp [State.status, hp, he, hn]

/-! ### The block buffer -/

@[simp] theorem index64_val (t : BitVec 6) : (index64 t).val = t.toNat := rfl

/-- MemWrite byte by byte (20_memory.md R42). -/
theorem memWrite_getElem (b : Vector Byte 64) (a n : Nat) (v : BitVec (8 * n)) (k : Nat) (hk : k < 64) :
    (memWrite b a n v)[k] =
      if a ≤ k ∧ k < a + n then v.extractLsb' (8 * (n - 1 - (k - a))) 8 else b[k] := by
  simp [memWrite]

/-- A one-byte MemWrite, as PUSHB and PADB use it. -/
theorem memWrite_byte_getElem (b : Vector Byte 64) (a : Nat) (v : Byte) (k : Nat) (hk : k < 64) :
    (memWrite b a 1 v)[k] = if k = a then v else b[k] := by
  rw [memWrite_getElem]
  by_cases h : k = a
  · subst h; simp
  · rw [if_neg (by omega), if_neg h]

theorem zeroFill_getElem (b : Vector Byte 64) (lo hi k : Nat) (hk : k < 64) :
    (zeroFill b lo hi)[k] = if lo ≤ k ∧ k < hi then 0x00 else b[k] := by
  simp [zeroFill]

/-- Every byte of the first padding block (41_preprocessor.md R109). -/
theorem padFirst_B_getElem (s : State) (k : Nat) (hk : k < 64) :
    (padFirst s).B[k] =
      if k < s.N.toNat then s.B[k] else if k = s.N.toNat then 0x80
      else if s.N.toNat ≤ 55 ∧ 56 ≤ k then s.LEN.extractLsb' (8 * (63 - k)) 8 else 0x00 := by
  unfold padFirst
  dsimp only
  split
  · rename_i hn
    rw [memWrite_getElem]
    by_cases h : 56 ≤ k
    · rw [if_pos (by omega), if_neg (by omega), if_neg (by omega), if_pos (by omega)]
      congr 1
      omega
    · rw [if_neg (by omega), zeroFill_getElem, memWrite_byte_getElem]
      grind
  · rename_i hn
    rw [zeroFill_getElem, memWrite_byte_getElem]
    grind

/-- Every byte of the extra padding block (41_preprocessor.md R109). -/
theorem padMore_B_getElem (s : State) (k : Nat) (hk : k < 64) :
    (padMore s).B[k] = if 56 ≤ k then s.LEN.extractLsb' (8 * (63 - k)) 8 else 0x00 := by
  rw [padMore_B, memWrite_getElem]
  by_cases h : 56 ≤ k
  · rw [if_pos (by omega), if_pos h]
    congr 1
    omega
  · rw [if_neg (by omega), zeroFill_getElem, if_pos (by omega), if_neg h]

/-- Nothing in front of a byte. -/
theorem empty_append_byte (x : Byte) : (0#0 ++ x : BitVec (0 + 8)) = x := by
  apply BitVec.eq_of_toNat_eq
  rw [BitVec.toNat_append]
  simp

/-- The four-byte MemRead of WLD, written out. -/
theorem memRead_four (b : Vector Byte 64) (a : Nat) (h : a + 4 ≤ 64) :
    memRead b a 4 h = b[a] ++ b[a + 1] ++ b[a + 2] ++ b[a + 3] := by
  simp only [memRead, Nat.add_zero]
  rw [show (0#0 ++ b[a] : BitVec (0 + 8)) = b[a] from empty_append_byte b[a]]

end Sys2Proof.Machine
end

