-- ==== Sys2Proof/Laws/PerInstr.lean ====
section
/-! SUPPORT. Families of statements about every instruction as syntax, one lemma per constructor. -/

/-! ### `TableRow`: the word of an instruction is selected by its own row of the opcode table -/

/-- The word's width and value as spec/opcode_table.json numbers it. -/
def Sys2Proof.Laws.TableRow.wordOf : Sys2Proof.CodeWord → Nat × Nat
  | .command c => (16, c.toNat)
  | .select s => (10, s.toNat)

/-- Some row of the opcode table has the instruction's mnemonic and selects its word (30_encoding.md R63, R66). -/
def Sys2Proof.Laws.TableRow.Statement (i : Sys2Proof.Instr) : Prop :=
  ∃ row ∈ Sys2Proof.opcodeTable, row.mnemonic = i.mnemonic ∧
    row.selects (Sys2Proof.Laws.TableRow.wordOf (Sys2Proof.encode i)).1
      (Sys2Proof.Laws.TableRow.wordOf (Sys2Proof.encode i)).2 = true

namespace Sys2Proof.Laws

theorem TableRow.init : TableRow.Statement .init := ⟨⟨"INIT", 16, 0xFFFF, 0x1000⟩, by decide, rfl, by decide⟩

theorem TableRow.pushb (d : Byte) : TableRow.Statement (.pushb d) :=
  ⟨⟨"PUSHB", 16, 0xFF00, 0x2000⟩, by decide, rfl, by revert d; decide⟩

theorem TableRow.final : TableRow.Statement .final := ⟨⟨"FINAL", 16, 0xFFFF, 0x3000⟩, by decide, rfl, by decide⟩

theorem TableRow.rdw (i : BitVec 3) : TableRow.Statement (.rdw i) :=
  ⟨⟨"RDW", 16, 0xFFF8, 0x4000⟩, by decide, rfl, by revert i; decide⟩

theorem TableRow.rdb (j : BitVec 5) : TableRow.Statement (.rdb j) :=
  ⟨⟨"RDB", 16, 0xFFE0, 0x5000⟩, by decide, rfl, by revert j; decide⟩

theorem TableRow.stat : TableRow.Statement .stat := ⟨⟨"STAT", 16, 0xFFFF, 0x6000⟩, by decide, rfl, by decide⟩

theorem TableRow.srst : TableRow.Statement .srst := ⟨⟨"SRST", 16, 0xFFFF, 0xF000⟩, by decide, rfl, by decide⟩

theorem TableRow.padb (t : BitVec 6) : TableRow.Statement (.padb t) :=
  ⟨⟨"PADB", 10, 0x3C0, 0x080⟩, by decide, rfl, by revert t; decide⟩

theorem TableRow.wld (t : BitVec 6) : TableRow.Statement (.wld t) :=
  ⟨⟨"WLD", 10, 0x3C0, 0x0C0⟩, by decide, rfl, by revert t; decide⟩

theorem TableRow.wex (t : BitVec 6) : TableRow.Statement (.wex t) :=
  ⟨⟨"WEX", 10, 0x3C0, 0x100⟩, by decide, rfl, by revert t; decide⟩

theorem TableRow.rld (t : BitVec 6) : TableRow.Statement (.rld t) :=
  ⟨⟨"RLD", 10, 0x3C0, 0x140⟩, by decide, rfl, by revert t; decide⟩

theorem TableRow.rnd (t : BitVec 6) : TableRow.Statement (.rnd t) :=
  ⟨⟨"RND", 10, 0x3C0, 0x180⟩, by decide, rfl, by revert t; decide⟩

theorem TableRow.feed (t : BitVec 6) : TableRow.Statement (.feed t) :=
  ⟨⟨"FEED", 10, 0x3C0, 0x1C0⟩, by decide, rfl, by revert t; decide⟩

end Sys2Proof.Laws
end

