-- ==== Sys2Proof/Laws/Reference.lean ====
section
/-! SUPPORT. The recurrences of the reference functions as the spec prints them. -/

namespace Sys2Proof.Reference

open Sys2Proof.Machine

/-! ### The message schedule (42_scheduler.md R120) -/

theorem scheduleUpTo_length (b : Block) (n : Nat) : (scheduleUpTo b n).length = n := by
  induction n with
  | zero => rfl
  | succ n ih => simp [scheduleUpTo, ih]

/-- An earlier word stands behind the later ones. -/
theorem scheduleUpTo_getD (b : Block) (n k : Nat) (h : k < n) :
    (scheduleUpTo b n).getD k 0 = (scheduleUpTo b (n - k)).headD 0 := by
  induction k generalizing n with
  | zero => cases scheduleUpTo b n <;> simp
  | succ k ih =>
    obtain ⟨n, rfl⟩ : ∃ m, n = m + 1 := ⟨n - 1, by omega⟩
    rw [show n + 1 - (k + 1) = n - k by omega, ← ih n (by omega)]
    simp [scheduleUpTo]

theorem expand_getElem (b : Block) (i : Nat) (h : i < 64) :
    (expand b)[i] = (scheduleUpTo b (i + 1)).headD 0 := by
  simp [expand]

/-- Words 0 to 15 are the block's words. -/
theorem expand_of_lt (b : Block) (i : Nat) (h : i < 16) : (expand b)[i] = blockWord b ⟨i, h⟩ := by
  rw [expand_getElem b i (by omega)]
  simp [scheduleUpTo, h]

/-- Words 16 to 63 follow the recurrence. -/
theorem expand_of_ge (b : Block) (i : Nat) (h : 16 ≤ i) (hi : i < 64) :
    (expand b)[i] = scheduleWord (expand b)[i - 16] (expand b)[i - 15] (expand b)[i - 7] (expand b)[i - 2] := by
  simp only [expand_getElem, scheduleWord]
  rw [scheduleUpTo, List.headD_cons, dif_neg (by omega), scheduleUpTo_getD b i 15 (by omega),
    scheduleUpTo_getD b i 14 (by omega), scheduleUpTo_getD b i 6 (by omega), scheduleUpTo_getD b i 1 (by omega),
    show i - 15 = i - 16 + 1 by omega, show i - 14 = i - 15 + 1 by omega, show i - 6 = i - 7 + 1 by omega,
    show i - 1 = i - 2 + 1 by omega]
  simp only [show i - 16 + 1 + 1 = i - 15 + 1 by omega]

/-! ### The compression function (43_compressor.md R130, R131) -/

theorem rounds_zero (ws : Vector Word 64) (prior : Vector Word 8) (h : 0 ≤ 64) : rounds ws prior 0 h = prior := rfl

theorem rounds_succ (ws : Vector Word 64) (prior : Vector Word 8) (n : Nat) (h : n + 1 ≤ 64) :
    rounds ws prior (n + 1) h = round (rounds ws prior n (by omega)) (Config.K ⟨n, h⟩) ws[n] := rfl

theorem compress_getElem (ws : Vector Word 64) (prior : Vector Word 8) (i : Nat) (h : i < 8) :
    (compress ws prior)[i] = prior[i] + (rounds ws prior 64 (Nat.le_refl 64))[i] := by
  simp [compress]

theorem digestAfter_append (bs cs : List Block) (d : Vector Word 8) :
    digestAfter (bs ++ cs) d = digestAfter cs (digestAfter bs d) := by
  simp [digestAfter]

/-! ### The digest (44_driver_and_commands.md R161) -/

theorem serialize_getElem (d : Vector Word 8) (j : Nat) (h : j < 32) :
    (serialize d)[j] = (d[j / 4]'(by omega)).extractLsb' (24 - 8 * (j % 4)) 8 := by
  simp [serialize]

theorem blocks_length (m : List Byte) : (blocks m).length = blockCount m.length := by
  simp [blocks]

end Sys2Proof.Reference
end

