-- ==== Sys2Proof/Laws/Step.lean ====
section
/-! SUPPORT. What one step can do: the step by the host's next event, each micro-operation where the sequencer has it,
and each command by phase. Later proofs cite these and do not unfold `step`. -/

namespace Sys2Proof.Machine

/-! ### The step by the host's next event -/

theorem step_nil {s : State} (h : s.pending = []) : step s = sequencerStep s := by
  simp [step, agentStep, h]

theorem step_idle {s : State} {rest : List HostEvent} (h : s.pending = .idle :: rest) :
    step s = sequencerStep { s with pending := rest } := by
  simp [step, agentStep, h]

theorem step_reset {s : State} {rest : List HostEvent} (h : s.pending = .reset :: rest) :
    step s = .next { s with pending := rest }.hardwareReset := by
  simp [step, agentStep, h]

theorem step_command {s : State} {c : BitVec 16} {rest : List HostEvent} (h : s.pending = .command c :: rest) :
    step s = if s.ready then transfer c { s with pending := rest } else sequencerStep s := by
  simp [step, agentStep, presentCommand, h]

/-- A busy engine whose host holds a command or is silent runs the sequencer. -/
theorem step_busy {s : State} (hb : s.busy = true) (hh : s.hostHolds = true) : step s = sequencerStep s := by
  rw [State.busy_eq_true_iff] at hb
  cases hp : s.pending with
  | nil => exact step_nil hp
  | cons e rest =>
    cases e with
    | command c => rw [step_command hp, hb]; rfl
    | idle => simp [State.hostHolds, hp] at hh
    | reset => simp [State.hostHolds, hp] at hh

/-! ### The micro-operations where the sequencer has them -/

theorem execPadb_first {s : State} (h : s.PADST = .first) : execPadb 0 s = .next (padDone (padFirst s)) := by
  simp [execPadb, h]

theorem execPadb_more {s : State} (h : s.PADST = .more) : execPadb 0 s = .next (padDone (padMore s)) := by
  simp [execPadb, h]

/-- The state after WLD with step index `t` (42_scheduler.md R121). -/
def afterWld (s : State) (t : BitVec 6) (h : t.toNat < 16) : State :=
  (writeW s t (memRead s.B (4 * t.toNat) 4 (by omega))).setSeq
    (if t = 15 then .wexp else .wload) (if t = 15 then 16 else t + 1)

/-- The word WEX writes at step index `t` (42_scheduler.md R122). -/
def wexWord (s : State) (t : BitVec 6) (h : 16 ≤ t.toNat) : Word :=
  have := t.isLt
  scheduleWord s.W[t.toNat - 16] s.W[t.toNat - 15] s.W[t.toNat - 7] s.W[t.toNat - 2]

/-- The state after WEX with step index `t`. -/
def afterWex (s : State) (t : BitVec 6) (h : 16 ≤ t.toNat) : State :=
  (writeW s t (wexWord s t h)).setSeq (if t = 63 then .rload else .wexp) (if t = 63 then 0 else t + 1)

/-- The state after RLD (43_compressor.md R132). -/
def afterRld (s : State) : State := { s with r := s.H }.setSeq .round 0

/-- The state after RND with step index `t` (43_compressor.md R133). -/
def afterRnd (s : State) (t : BitVec 6) : State :=
  { s with r := round s.r (Config.K (index64 t)) s.W[index64 t] }.setSeq
    (if t = 63 then .feed else .round) (if t = 63 then 0 else t + 1)

/-- Where FEED goes, by the padding progress (43_compressor.md R134). -/
def feedGoesTo : PadState → Phase
  | .none => .absorb
  | .first => .feed
  | .more => .pad
  | .last => .done

/-- The state after FEED (43_compressor.md R134). -/
def afterFeed (s : State) : State :=
  { feedForward s with PADST := if s.PADST = PadState.last then PadState.none else s.PADST }.setSeq (feedGoesTo s.PADST) 0

@[simp] theorem afterWld_r (s : State) (t : BitVec 6) (h : t.toNat < 16) : (afterWld s t h).r = s.r := rfl
@[simp] theorem afterWld_H (s : State) (t : BitVec 6) (h : t.toNat < 16) : (afterWld s t h).H = s.H := rfl
@[simp] theorem afterWld_W (s : State) (t : BitVec 6) (h : t.toNat < 16) : (afterWld s t h).W = s.W.set (index64 t) (memRead s.B (4 * t.toNat) 4 (by omega)) := rfl
@[simp] theorem afterWld_B (s : State) (t : BitVec 6) (h : t.toNat < 16) : (afterWld s t h).B = s.B := rfl
@[simp] theorem afterWld_N (s : State) (t : BitVec 6) (h : t.toNat < 16) : (afterWld s t h).N = s.N := rfl
@[simp] theorem afterWld_LEN (s : State) (t : BitVec 6) (h : t.toNat < 16) : (afterWld s t h).LEN = s.LEN := rfl
@[simp] theorem afterWld_PH (s : State) (t : BitVec 6) (h : t.toNat < 16) : (afterWld s t h).PH = if t = 15 then .wexp else .wload := rfl
@[simp] theorem afterWld_T (s : State) (t : BitVec 6) (h : t.toNat < 16) : (afterWld s t h).T = if t = 15 then 16 else t + 1 := rfl
@[simp] theorem afterWld_PADST (s : State) (t : BitVec 6) (h : t.toNat < 16) : (afterWld s t h).PADST = s.PADST := rfl
@[simp] theorem afterWld_ECODE (s : State) (t : BitVec 6) (h : t.toNat < 16) : (afterWld s t h).ECODE = s.ECODE := rfl
@[simp] theorem afterWld_pending (s : State) (t : BitVec 6) (h : t.toNat < 16) : (afterWld s t h).pending = s.pending := rfl
@[simp] theorem afterWld_responses (s : State) (t : BitVec 6) (h : t.toNat < 16) : (afterWld s t h).responses = s.responses := rfl
@[simp] theorem afterWld_resets (s : State) (t : BitVec 6) (h : t.toNat < 16) : (afterWld s t h).resets = s.resets := rfl

@[simp] theorem afterWex_r (s : State) (t : BitVec 6) (h : 16 ≤ t.toNat) : (afterWex s t h).r = s.r := rfl
@[simp] theorem afterWex_H (s : State) (t : BitVec 6) (h : 16 ≤ t.toNat) : (afterWex s t h).H = s.H := rfl
@[simp] theorem afterWex_W (s : State) (t : BitVec 6) (h : 16 ≤ t.toNat) : (afterWex s t h).W = s.W.set (index64 t) (wexWord s t h) := rfl
@[simp] theorem afterWex_B (s : State) (t : BitVec 6) (h : 16 ≤ t.toNat) : (afterWex s t h).B = s.B := rfl
@[simp] theorem afterWex_N (s : State) (t : BitVec 6) (h : 16 ≤ t.toNat) : (afterWex s t h).N = s.N := rfl
@[simp] theorem afterWex_LEN (s : State) (t : BitVec 6) (h : 16 ≤ t.toNat) : (afterWex s t h).LEN = s.LEN := rfl
@[simp] theorem afterWex_PH (s : State) (t : BitVec 6) (h : 16 ≤ t.toNat) : (afterWex s t h).PH = if t = 63 then .rload else .wexp := rfl
@[simp] theorem afterWex_T (s : State) (t : BitVec 6) (h : 16 ≤ t.toNat) : (afterWex s t h).T = if t = 63 then 0 else t + 1 := rfl
@[simp] theorem afterWex_PADST (s : State) (t : BitVec 6) (h : 16 ≤ t.toNat) : (afterWex s t h).PADST = s.PADST := rfl
@[simp] theorem afterWex_ECODE (s : State) (t : BitVec 6) (h : 16 ≤ t.toNat) : (afterWex s t h).ECODE = s.ECODE := rfl
@[simp] theorem afterWex_pending (s : State) (t : BitVec 6) (h : 16 ≤ t.toNat) : (afterWex s t h).pending = s.pending := rfl
@[simp] theorem afterWex_responses (s : State) (t : BitVec 6) (h : 16 ≤ t.toNat) : (afterWex s t h).responses = s.responses := rfl
@[simp] theorem afterWex_resets (s : State) (t : BitVec 6) (h : 16 ≤ t.toNat) : (afterWex s t h).resets = s.resets := rfl

@[simp] theorem afterRld_r (s : State) : (afterRld s).r = s.H := rfl
@[simp] theorem afterRld_H (s : State) : (afterRld s).H = s.H := rfl
@[simp] theorem afterRld_W (s : State) : (afterRld s).W = s.W := rfl
@[simp] theorem afterRld_B (s : State) : (afterRld s).B = s.B := rfl
@[simp] theorem afterRld_N (s : State) : (afterRld s).N = s.N := rfl
@[simp] theorem afterRld_LEN (s : State) : (afterRld s).LEN = s.LEN := rfl
@[simp] theorem afterRld_PH (s : State) : (afterRld s).PH = .round := rfl
@[simp] theorem afterRld_T (s : State) : (afterRld s).T = 0 := rfl
@[simp] theorem afterRld_PADST (s : State) : (afterRld s).PADST = s.PADST := rfl
@[simp] theorem afterRld_ECODE (s : State) : (afterRld s).ECODE = s.ECODE := rfl
@[simp] theorem afterRld_pending (s : State) : (afterRld s).pending = s.pending := rfl
@[simp] theorem afterRld_responses (s : State) : (afterRld s).responses = s.responses := rfl
@[simp] theorem afterRld_resets (s : State) : (afterRld s).resets = s.resets := rfl

@[simp] theorem afterRnd_r (s : State) (t : BitVec 6) : (afterRnd s t).r = round s.r (Config.K (index64 t)) s.W[index64 t] := rfl
@[simp] theorem afterRnd_H (s : State) (t : BitVec 6) : (afterRnd s t).H = s.H := rfl
@[simp] theorem afterRnd_W (s : State) (t : BitVec 6) : (afterRnd s t).W = s.W := rfl
@[simp] theorem afterRnd_B (s : State) (t : BitVec 6) : (afterRnd s t).B = s.B := rfl
@[simp] theorem afterRnd_N (s : State) (t : BitVec 6) : (afterRnd s t).N = s.N := rfl
@[simp] theorem afterRnd_LEN (s : State) (t : BitVec 6) : (afterRnd s t).LEN = s.LEN := rfl
@[simp] theorem afterRnd_PH (s : State) (t : BitVec 6) : (afterRnd s t).PH = if t = 63 then .feed else .round := rfl
@[simp] theorem afterRnd_T (s : State) (t : BitVec 6) : (afterRnd s t).T = if t = 63 then 0 else t + 1 := rfl
@[simp] theorem afterRnd_PADST (s : State) (t : BitVec 6) : (afterRnd s t).PADST = s.PADST := rfl
@[simp] theorem afterRnd_ECODE (s : State) (t : BitVec 6) : (afterRnd s t).ECODE = s.ECODE := rfl
@[simp] theorem afterRnd_pending (s : State) (t : BitVec 6) : (afterRnd s t).pending = s.pending := rfl
@[simp] theorem afterRnd_responses (s : State) (t : BitVec 6) : (afterRnd s t).responses = s.responses := rfl
@[simp] theorem afterRnd_resets (s : State) (t : BitVec 6) : (afterRnd s t).resets = s.resets := rfl

@[simp] theorem afterFeed_r (s : State) : (afterFeed s).r = s.r := rfl
@[simp] theorem afterFeed_H (s : State) : (afterFeed s).H = Vector.ofFn fun i => s.H[i] + s.r[i] := rfl
@[simp] theorem afterFeed_W (s : State) : (afterFeed s).W = s.W := rfl
@[simp] theorem afterFeed_B (s : State) : (afterFeed s).B = s.B := rfl
@[simp] theorem afterFeed_N (s : State) : (afterFeed s).N = s.N := rfl
@[simp] theorem afterFeed_LEN (s : State) : (afterFeed s).LEN = s.LEN := rfl
@[simp] theorem afterFeed_PH (s : State) : (afterFeed s).PH = feedGoesTo s.PADST := rfl
@[simp] theorem afterFeed_T (s : State) : (afterFeed s).T = 0 := rfl
@[simp] theorem afterFeed_PADST (s : State) : (afterFeed s).PADST = if s.PADST = .last then .none else s.PADST := rfl
@[simp] theorem afterFeed_ECODE (s : State) : (afterFeed s).ECODE = s.ECODE := rfl
@[simp] theorem afterFeed_pending (s : State) : (afterFeed s).pending = s.pending := rfl
@[simp] theorem afterFeed_responses (s : State) : (afterFeed s).responses = s.responses := rfl
@[simp] theorem afterFeed_resets (s : State) : (afterFeed s).resets = s.resets := rfl

theorem execWld_eq {t : BitVec 6} {s : State} (h : t.toNat < 16) : execWld t s = .next (afterWld s t h) := by
  rw [execWld, dif_pos h, afterWld]
  by_cases h15 : t = 15
  · simp only [if_pos h15]
  · simp only [if_neg h15]

theorem execWex_eq {t : BitVec 6} {s : State} (h : 16 ≤ t.toNat) : execWex t s = .next (afterWex s t h) := by
  rw [execWex, dif_pos h, afterWex, wexWord]
  by_cases h63 : t = 63
  · simp only [if_pos h63]
  · simp only [if_neg h63]

theorem execRld_eq (s : State) : execRld 0 s = .next (afterRld s) := rfl

theorem execRnd_eq (t : BitVec 6) (s : State) : execRnd t s = .next (afterRnd s t) := by
  rw [execRnd, afterRnd]
  by_cases h63 : t = 63
  · simp only [if_pos h63]
  · simp only [if_neg h63]

theorem execFeed_eq {s : State} (h : s.PADST ≠ .first) : execFeed 0 s = .next (afterFeed s) := by
  unfold execFeed afterFeed
  cases hp : s.PADST <;> simp_all [feedGoesTo, feedForward, State.setSeq]

/-- The sequencer's step, inverted: where it answers a next state, one of these cases holds. -/
theorem sequencerStep_next {s t : State} (h : sequencerStep s = .next t) :
    (s.ready = true ∧ t = s) ∨
    (s.PH = .pad ∧ s.T = 0 ∧ s.PADST = .first ∧ t = padDone (padFirst s)) ∨
    (s.PH = .pad ∧ s.T = 0 ∧ s.PADST = .more ∧ t = padDone (padMore s)) ∨
    (s.PH = .wload ∧ ∃ h, t = afterWld s s.T h) ∨
    (s.PH = .wexp ∧ ∃ h, t = afterWex s s.T h) ∨
    (s.PH = .rload ∧ s.T = 0 ∧ t = afterRld s) ∨
    (s.PH = .round ∧ t = afterRnd s s.T) ∨
    (s.PH = .feed ∧ s.T = 0 ∧ s.PADST ≠ .first ∧ t = afterFeed s) := by
  rw [sequencerStep_eq] at h
  cases hp : s.PH <;> simp only [hp] at h
  case idle | absorb | done | fault =>
    cases h
    exact .inl ⟨by simp [State.ready, hp, Phase.ready], rfl⟩
  case pad =>
    by_cases h0 : s.T = 0
    · rw [h0] at h
      cases hq : s.PADST with
      | first => rw [execPadb_first hq] at h; cases h; simp [h0]
      | more => rw [execPadb_more hq] at h; cases h; simp [h0]
      | none => simp [execPadb, hq] at h
      | last => simp [execPadb, hq] at h
    · rw [execPadb, if_pos h0] at h; cases h
  case wload =>
    by_cases hl : s.T.toNat < 16
    · rw [execWld_eq hl] at h; cases h; simp [hl]
    · rw [execWld, dif_neg hl] at h; cases h
  case wexp =>
    by_cases hl : 16 ≤ s.T.toNat
    · rw [execWex_eq hl] at h; cases h; simp [hl]
    · rw [execWex, dif_neg hl] at h; cases h
  case rload =>
    by_cases h0 : s.T = 0
    · rw [h0, execRld_eq] at h; cases h; simp [h0]
    · rw [execRld, if_pos h0] at h; cases h
  case round => rw [execRnd_eq] at h; cases h; simp
  case feed =>
    by_cases h0 : s.T = 0
    · by_cases hq : s.PADST = .first
      · simp [execFeed, h0, hq] at h
      · rw [h0, execFeed_eq hq] at h; cases h; simp [h0, hq]
    · rw [execFeed, if_pos h0] at h; cases h

/-! ### The transfer of a command -/

/-- A command word with a zero `mbz` field is its `op` and `arg` (30_encoding.md R60). -/
theorem commandWord_eq_iff (c : BitVec 16) (op : BitVec 4) (arg : BitVec 8) :
    c = op ++ 0#4 ++ arg ↔ c.extractLsb' 12 4 = op ∧ c.extractLsb' 8 4 = 0#4 ∧ c.extractLsb' 0 8 = arg := by
  have h1 := op.isLt
  have h2 := arg.isLt
  have h3 := c.isLt
  rw [← BitVec.toNat_inj, ← BitVec.toNat_inj, ← BitVec.toNat_inj, ← BitVec.toNat_inj, BitVec.toNat_append,
    BitVec.toNat_append, ← Nat.shiftLeft_add_eq_or_of_lt h2,
    ← Nat.shiftLeft_add_eq_or_of_lt (show (0#4).toNat < 2 ^ 4 by decide)]
  simp only [BitVec.extractLsb'_toNat, BitVec.toNat_ofNat, Nat.shiftRight_eq_div_pow, Nat.shiftLeft_eq]
  omega

theorem decodeCommand_srst_iff (c : BitVec 16) : decodeCommand c = .ok .srst ↔ c = 0xF000 := by
  constructor
  · intro h
    unfold decodeCommand decodeOperation at h
    split at h
    · rename_i hm
      split at h
      all_goals (try simp only [decodeZ, decodeX3, decodeX5] at h)
      all_goals (try split at h)
      all_goals cases h
      rename_i ho ha
      exact (commandWord_eq_iff c 15 0).2 ⟨BitVec.eq_of_toNat_eq ho, hm, ha⟩
    · cases h
  · rintro rfl
    rfl

theorem decodeCommand_init_iff (c : BitVec 16) : decodeCommand c = .ok .init ↔ c = 0x1000 := by
  constructor
  · intro h
    unfold decodeCommand decodeOperation at h
    split at h
    · rename_i hm
      split at h
      all_goals (try simp only [decodeZ, decodeX3, decodeX5] at h)
      all_goals (try split at h)
      all_goals cases h
      rename_i ho ha
      exact (commandWord_eq_iff c 1 0).2 ⟨BitVec.eq_of_toNat_eq ho, hm, ha⟩
    · cases h
  · rintro rfl
    rfl

/-- What a transfer does to a ready engine that is not in FAULT (44_driver_and_commands.md R150). -/
def commandEffect (s : State) : Except Reject Instr → State
  | .error _ => s.raiseFault .eill
  | .ok .init => ({ loadIV s with N := 0, LEN := 0, PADST := .none }.setSeq .absorb 0).respondStatus
  | .ok (.pushb d) =>
    if s.PH ≠ .absorb then s.raiseFault .eseq
    else if s.LEN = lenMax then s.raiseFault .elen
    else (appendByte s d).respondStatus
  | .ok .final =>
    if s.PH ≠ .absorb then s.raiseFault .eseq
    else ({ s with PADST := .first }.setSeq .pad 0).respondStatus
  | .ok (.rdw i) => if s.PH ≠ .done then s.raiseFault .eseq else s.respond (digestWord s.H i)
  | .ok (.rdb j) => if s.PH ≠ .done then s.raiseFault .eseq else s.respond ((digestByte s.H j).zeroExtend 32)
  | .ok .stat => s.respondStatus
  | .ok .srst => s.controlReset.respondStatus
  | .ok _ => s

/-- The command decoder reads only commands. -/
theorem decodeCommand_isCommand {c : BitVec 16} {i : Instr} (h : decodeCommand c = .ok i) : i.isCommand = true := by
  unfold decodeCommand decodeOperation at h
  repeat' split at h
  all_goals first
    | (cases h; rfl)
    | (simp only [decodeZ, decodeX3, decodeX5] at h; split at h <;> first | (cases h; rfl) | cases h)
    | cases h

theorem transfer_ready {s : State} (hr : s.ready = true) (hf : s.PH ≠ .fault) (c : BitVec 16) :
    transfer c s = .next (commandEffect s (decodeCommand c)) := by
  unfold transfer
  cases hd : decodeCommand c with
  | error e => simp [illegalWord, onCommand_ready hr hf, commandEffect]
  | ok i =>
    have hc := decodeCommand_isCommand hd
    cases i <;>
      simp_all [exec, execInit, execPushb, execFinal, execRdw, execRdb, execStat, execSrst, readDigest,
        onCommand_ready hr hf, onTransfer_ready hr, commandEffect, Instr.isCommand]

theorem transfer_fault {s : State} (hf : s.PH = .fault) (c : BitVec 16) :
    transfer c s = .next (if c = 0xF000 then s.controlReset.respondStatus else s.respondStatus) := by
  have hr : s.ready = true := by simp [State.ready, hf, Phase.ready]
  simp only [← decodeCommand_srst_iff]
  unfold transfer
  cases hd : decodeCommand c with
  | error e => simp [illegalWord, onCommand_fault hf]
  | ok i =>
    have hc := decodeCommand_isCommand hd
    cases i <;>
      simp_all [exec, execInit, execPushb, execFinal, execRdw, execRdb, execStat, execSrst, readDigest,
        onCommand_fault hf, onTransfer_ready hr, Instr.isCommand]

/-- One step, inverted: a reset, a transfer outside FAULT, a transfer in FAULT, or the sequencer's step of the engine
with at most a wait taken from the host's events. -/
theorem step_next {s t : State} (h : step s = .next t) :
    (∃ rest, s.pending = .reset :: rest ∧ t = { s with pending := rest }.hardwareReset) ∨
    (∃ c rest, s.pending = .command c :: rest ∧ s.ready = true ∧ s.PH ≠ .fault ∧
      t = commandEffect { s with pending := rest } (decodeCommand c)) ∨
    (∃ c rest, s.pending = .command c :: rest ∧ s.PH = .fault ∧
      t = if c = 0xF000 then { s with pending := rest }.controlReset.respondStatus
        else { s with pending := rest }.respondStatus) ∨
    (∃ p, (p = s.pending ∧ (s.busy = true ∨ p = []) ∨ s.pending = .idle :: p) ∧
      sequencerStep { s with pending := p } = .next t) := by
  cases hp : s.pending with
  | nil =>
    rw [step_nil hp] at h
    exact .inr (.inr (.inr ⟨[], .inl ⟨rfl, .inr rfl⟩, by rwa [← hp]⟩))
  | cons e rest =>
    cases e with
    | idle =>
      rw [step_idle hp] at h
      exact .inr (.inr (.inr ⟨rest, .inr rfl, h⟩))
    | reset =>
      rw [step_reset hp] at h
      cases h
      exact .inl ⟨rest, rfl, rfl⟩
    | command c =>
      rw [step_command hp] at h
      by_cases hr : s.ready = true
      · rw [if_pos hr] at h
        by_cases hf : s.PH = .fault
        · rw [transfer_fault (s := { s with pending := rest }) hf] at h
          cases h
          exact .inr (.inr (.inl ⟨c, rest, rfl, hf, rfl⟩))
        · rw [transfer_ready (s := { s with pending := rest }) hr hf] at h
          cases h
          exact .inr (.inl ⟨c, rest, rfl, hr, hf, rfl⟩)
      · rw [if_neg hr] at h
        have hb : s.busy = true := by simpa [State.busy] using hr
        exact .inr (.inr (.inr ⟨_, .inl ⟨rfl, .inl hb⟩, by rwa [← hp]⟩))

end Sys2Proof.Machine
end

