-- ==== Sys2Proof/Laws/Safety.lean ====
section
/-! SUPPORT. The rules of consistent states as propositions, phase by phase, and runs one step at a time. -/

namespace Sys2Proof.Machine

theorem State.consistent_iff (s : State) :
    s.consistent = true ↔
      s.PH.usesIndex s.T = true ∧ s.PH.allowsPadding s.PADST = true ∧ (s.ECODE ≠ .enone ↔ s.PH = .fault) ∧
        s.LEN.extractLsb' 0 3 = 0 ∧ s.countFits = true := by
  unfold State.consistent
  rw [Bool.and_eq_true, Bool.and_eq_true, Bool.and_eq_true, Bool.and_eq_true, decide_eq_true_eq, decide_eq_true_eq]
  simp only [and_assoc]

theorem State.countFits_idle {s : State} (h : s.PH = .idle) : s.countFits = true ↔ s.N = 0 ∧ s.LEN = 0 := by
  simp [State.countFits, h]

theorem State.countFits_absorb {s : State} (h : s.PH = .absorb) : s.countFits = true ↔ s.N = s.bytesMod64 := by
  simp [State.countFits, h]

theorem State.countFits_padFirst {s : State} (h : s.PH = .pad) (hq : s.PADST = .first) :
    s.countFits = true ↔ s.N = s.bytesMod64 := by
  simp [State.countFits, h, hq]

theorem State.countFits_padMore {s : State} (h : s.PH = .pad) (hq : s.PADST = .more) :
    s.countFits = true ↔ s.N = 0 ∧ 56 ≤ s.bytesMod64.toNat := by
  simp [State.countFits, h, hq]

/-- The phases in which a block is processed. -/
theorem State.countFits_block {s : State}
    (h : s.PH = .wload ∨ s.PH = .wexp ∨ s.PH = .rload ∨ s.PH = .round ∨ s.PH = .feed) :
    s.countFits = true ↔
      s.N = 0 ∧ (s.PADST = .none → s.bytesMod64 = 0) ∧ (s.PADST = .more → 56 ≤ s.bytesMod64.toNat) := by
  unfold State.countFits
  rcases h with h | h | h | h | h <;> simp only [h, decide_eq_true_eq]

theorem State.countFits_done {s : State} (h : s.PH = .done) : s.countFits = true ↔ s.N = 0 := by
  simp [State.countFits, h]

theorem State.countFits_fault {s : State} (h : s.PH = .fault) : s.countFits = true := by
  simp [State.countFits, h]

/-- A pushed byte keeps `LEN` a multiple of 8. -/
theorem length_multiple_of_eight_add (x : BitVec 64) (h : x.extractLsb' 0 3 = 0) : (x + 8).extractLsb' 0 3 = 0 := by
  apply BitVec.eq_of_toNat_eq
  have := congrArg BitVec.toNat h
  simp [BitVec.extractLsb'_toNat] at *
  omega

/-- A pushed byte adds one to the byte count modulo 64. -/
theorem bytes_mod_64_add (x : BitVec 64) (h : x.extractLsb' 0 3 = 0) :
    (x + 8).extractLsb' 3 6 = x.extractLsb' 3 6 + 1 := by
  apply BitVec.eq_of_toNat_eq
  have := congrArg BitVec.toNat h
  simp [BitVec.extractLsb'_toNat, Nat.shiftRight_eq_div_pow] at *
  omega

/-! ### Runs -/

theorem run_zero (s : State) : run 0 s = .next s := rfl

/-- The first step of a run. -/
theorem run_succ_eq (n : Nat) (s : State) :
    run (n + 1) s =
      match step s with
      | .next t => run n t
      | .fault r => .fault r
      | .refused r => .refused r := by
  refine (Host.Core.run.eq_2 Sys2Proof.core s n).trans ?_
  rw [show Sys2Proof.core.step s = step s from rfl]
  cases step s <;> rfl

theorem run_succ {s t : State} (n : Nat) (h : step s = .next t) : run (n + 1) s = run n t := by
  rw [run_succ_eq, h]

/-- A run of more than no steps that answers a next state begins with a step. -/
theorem run_succ_next {s t : State} {n : Nat} (h : run (n + 1) s = .next t) :
    ∃ u, step s = .next u ∧ run n u = .next t := by
  rw [run_succ_eq] at h
  cases hs : step s with
  | next u => rw [hs] at h; exact ⟨u, rfl, h⟩
  | fault f => rw [hs] at h; cases h
  | refused f => rw [hs] at h; cases h

/-- Two runs, one after the other. -/
theorem run_add {s t : State} (m n : Nat) (h : run m s = .next t) : run (m + n) s = run n t := by
  induction m generalizing s with
  | zero =>
    rw [run_zero] at h
    cases h
    rw [Nat.zero_add]
  | succ m ih =>
    obtain ⟨u, hu, h⟩ := run_succ_next h
    rw [show m + 1 + n = m + n + 1 by omega, run_succ (m + n) hu]
    exact ih h

end Sys2Proof.Machine
end

