-- ==== Sys2Proof/Tests/Slice0.lean ====
section
/-! SUPPORT. The model's own tests: the smoke tests of well-formedness, words written out from the encodings of
30_encoding.md, one step per instruction with the values of 95_test_vectors.md, and a witness for the hypotheses of every
statement. -/

namespace Sys2Proof.Tests

open Sys2Proof.Machine

/-! ### Small states -/

/-- An idle engine with all data zero, for tests alone. -/
def blank : State where
  r := Vector.replicate 8 0
  H := Vector.replicate 8 0
  W := Vector.replicate 64 0
  B := Vector.replicate 64 0
  N := 0
  LEN := 0
  PH := .idle
  T := 0
  PADST := .none
  ECODE := .enone
  pending := []
  responses := []
  resets := 0

/-- An open context that has taken `n` bytes. -/
def absorbing (n : Nat) : State := { blank with PH := .absorb, N := BitVec.ofNat 6 n, LEN := BitVec.ofNat 64 (8 * n) }

/-- An engine about to build a padding block. -/
def padding (q : PadState) (n len : Nat) : State :=
  { blank with PH := .pad, PADST := q, N := BitVec.ofNat 6 n, LEN := BitVec.ofNat 64 len }

/-- An engine in a phase at a step index. -/
def inPhase (p : Phase) (t : BitVec 6) (q : PadState) : State := { blank with PH := p, T := t, PADST := q }

/-- The digest of "abc" (95_test_vectors.md section 6), readable. -/
def digested : State :=
  { blank with
    PH := .done
    H := #v[0xba7816bf, 0x8f01cfea, 0x414140de, 0x5dae2223, 0xb00361a3, 0x96177a9c, 0xb410ff61, 0xf20015ad] }

/-- An engine that took a fault in IDLE. -/
def faulted : State := { blank with PH := .fault, ECODE := .eseq }

/-- The state with the host's events set. -/
def with_ (s : State) (p : List HostEvent) : State := { s with pending := p }

/-- What a function of the next state gives, where there is a next state. -/
def seen {α : Type} (r : Result) (f : State → α) : Option α :=
  match r with
  | .next t => some (f t)
  | .fault _ => none
  | .refused _ => none

/-- The fault a result stops with. -/
def stop (r : Result) : Option Fault :=
  match r with
  | .next _ => none
  | .fault f => some f
  | .refused _ => none

/-! ### Well-formedness: an ill-formed term for each check -/

theorem test_wellFormed_refuses_padb_1 : (Instr.padb 1).wellFormed = false := by decide
theorem test_wellFormed_refuses_wld_16 : (Instr.wld 16).wellFormed = false := by decide
theorem test_wellFormed_refuses_wex_15 : (Instr.wex 15).wellFormed = false := by decide
theorem test_wellFormed_refuses_rld_1 : (Instr.rld 1).wellFormed = false := by decide
theorem test_wellFormed_refuses_feed_63 : (Instr.feed 63).wellFormed = false := by decide
theorem test_wellFormed_takes_ends :
    (Instr.padb 0).wellFormed ∧ (Instr.wld 15).wellFormed ∧ (Instr.wex 16).wellFormed ∧ (Instr.wex 63).wellFormed ∧
    (Instr.rld 0).wellFormed ∧ (Instr.rnd 63).wellFormed ∧ (Instr.feed 0).wellFormed := by decide

/-! ### Decoding: words written from the "Encoding" column of R63 and the "Pattern" column of R66 -/

theorem test_decode_init : decodeCommand 0b0001_0000_0000_0000 = .ok .init := by decide
theorem test_decode_pushb : decodeCommand 0b0010_0000_0110_0001 = .ok (.pushb 0x61) := by decide
theorem test_decode_final : decodeCommand 0b0011_0000_0000_0000 = .ok .final := by decide
theorem test_decode_rdw : decodeCommand 0b0100_0000_0000_0110 = .ok (.rdw 6) := by decide
theorem test_decode_rdb : decodeCommand 0b0101_0000_0001_0011 = .ok (.rdb 19) := by decide
theorem test_decode_stat : decodeCommand 0b0110_0000_0000_0000 = .ok .stat := by decide
theorem test_decode_srst : decodeCommand 0b1111_0000_0000_0000 = .ok .srst := by decide
theorem test_decode_padb : decodeMicroOp 0b0010_000000 = .ok (.padb 0) := by decide
theorem test_decode_wld : decodeMicroOp 0b0011_001101 = .ok (.wld 13) := by decide
theorem test_decode_wex : decodeMicroOp 0b0100_010001 = .ok (.wex 17) := by decide
theorem test_decode_rld : decodeMicroOp 0b0101_000000 = .ok (.rld 0) := by decide
theorem test_decode_rnd : decodeMicroOp 0b0110_100110 = .ok (.rnd 38) := by decide
theorem test_decode_feed : decodeMicroOp 0b0111_000000 = .ok (.feed 0) := by decide
/-- Illegal words of R64: each item of its list, the all-zero and the all-one word. -/
theorem test_decode_refuses :
    decodeCommand 0x0000 = .error .reservedOperation ∧ decodeCommand 0xFFFF = .error .mustBeZeroField ∧
    decodeCommand 0x7000 = .error .reservedOperation ∧ decodeCommand 0xE0FF = .error .reservedOperation ∧
    decodeCommand 0x2100 = .error .mustBeZeroField ∧ decodeCommand 0x6001 = .error .argumentBits ∧
    decodeCommand 0x4008 = .error .argumentBits ∧ decodeCommand 0x5020 = .error .argumentBits := by decide
/-- The ready phases and the reserved phase codes select nothing (R66). -/
theorem test_decode_selects_nothing :
    decodeMicroOp 0b0000_000000 = .error .noMicroOperation ∧ decodeMicroOp 0b0001_000000 = .error .noMicroOperation ∧
    decodeMicroOp 0b1000_000000 = .error .noMicroOperation ∧ decodeMicroOp 0b1001_000000 = .error .noMicroOperation ∧
    decodeMicroOp 0b1110_000000 = .error .noMicroOperation ∧ decodeMicroOp 0b1111_000000 = .error .noMicroOperation := by
  decide
theorem test_decodeTableWord :
    decodeTableWord 16 0x1000 = some .init ∧ decodeTableWord 16 0x20FF = some (.pushb 0xFF) ∧
    decodeTableWord 16 0x0CF = some (.wld 15) ∧ decodeTableWord 10 0x1BF = some (.rnd 63) ∧
    decodeTableWord 16 0x0000 = none ∧ decodeTableWord 16 0x2100 = none := by decide

/-! ### A step from reset runs the placed word -/

theorem test_fetch_init :
    seen (step (State.reset.withFetchWord 16 0x1000)) (fun t => (t.PH, t.responses)) = some (.absorb, [0x1]) := by decide
theorem test_fetch_pushb_from_reset_is_eseq :
    seen (step (State.reset.withFetchWord 16 0x2061)) (fun t => (t.PH, t.responses)) = some (.fault, [0x2f]) := by decide
theorem test_fetch_srst :
    seen (step (State.reset.withFetchWord 16 0xF000)) (fun t => (t.PH, t.pending)) = some (.idle, []) := by decide
theorem test_fetch_padb :
    seen (step (State.reset.withFetchWord 16 0x080)) (fun t => (t.PH, t.PADST)) = some (.wload, .last) := by decide
theorem test_fetch_wld :
    seen (step (State.reset.withFetchWord 16 0x0C0)) (fun t => (t.PH, t.T)) = some (.wload, 1) := by decide
theorem test_fetch_wex :
    seen (step (State.reset.withFetchWord 16 0x110)) (fun t => (t.PH, t.T)) = some (.wexp, 17) := by decide
theorem test_fetch_rld :
    seen (step (State.reset.withFetchWord 16 0x140)) (fun t => (t.PH, t.T)) = some (.round, 0) := by decide
theorem test_fetch_rnd :
    seen (step (State.reset.withFetchWord 16 0x180)) (fun t => (t.PH, t.T)) = some (.round, 1) := by decide
theorem test_fetch_feed :
    seen (step (State.reset.withFetchWord 16 0x1C0)) (fun t => (t.PH, t.T)) = some (.absorb, 0) := by decide

/-! ### One step per instruction: values of 95_test_vectors.md and of the rules' own examples -/

/-- R151: `INIT -> 0x00000001`, `H = IV`. -/
theorem test_init :
    seen (exec .init digested) (fun t => (t.H[0], t.H[7], t.responses)) =
      some (0x6a09e667, 0x5be0cd19, [0x00000001]) := by decide
/-- R107: N = 2, LEN = 16, PUSHB 0x63. -/
theorem test_pushb :
    seen (exec (.pushb 0x63) (absorbing 2)) (fun t => (t.B[2], t.LEN, t.N, t.responses)) =
      some (0x63, 24, 3, [0x00000301]) := by decide
/-- Section 2.3: the 64th byte. -/
theorem test_pushb_fills_block :
    seen (exec (.pushb 0x80) (absorbing 63)) (fun t => (t.B[63], t.N, t.LEN, t.PH, t.responses)) =
      some (0x80, 0, 0x200, .wload, [0x00000003]) := by decide
/-- R108: `FINAL` with N = 3. -/
theorem test_final :
    seen (exec .final (absorbing 3)) (fun t => (t.PADST, t.PH, t.responses)) = some (.first, .pad, [0x00000302]) := by
  decide
/-- R154: after `HASH "abc"`, `RDW 7 -> 0xf20015ad`. -/
theorem test_rdw : seen (exec (.rdw 7) digested) (fun t => t.responses) = some [0xf20015ad] := by decide
/-- R155: `RDB 1 -> 0x00000078`. -/
theorem test_rdb : seen (exec (.rdb 1) digested) (fun t => t.responses) = some [0x00000078] := by decide
/-- R155: `RDB 31 -> 0x000000ad`. -/
theorem test_rdb_31 : seen (exec (.rdb 31) digested) (fun t => t.responses) = some [0x000000ad] := by decide
/-- R152: in FAULT after an ESEQ taken in IDLE. -/
theorem test_stat : seen (exec .stat faulted) (fun t => (t.PH, t.responses)) = some (.fault, [0x0000002f]) := by decide
/-- R153: in FAULT, `SRST -> 0x00000000`. -/
theorem test_srst :
    seen (exec .srst faulted) (fun t => (t.PH, t.ECODE, t.responses)) = some (.idle, .enone, [0x00000000]) := by decide
/-- Section 2.3: N = 55, LEN = 0x1b8. -/
theorem test_padb_55 :
    seen (exec (.padb 0) (padding .first 55 0x1b8)) (fun t => (t.B[54], t.B[55], t.B[62], t.B[63], t.PADST)) =
      some (0, 0x80, 0x01, 0xb8, .last) := by decide
/-- Section 2.3: N = 56, LEN = 0x1c0. -/
theorem test_padb_56 :
    seen (exec (.padb 0) (padding .first 56 0x1c0)) (fun t => (t.B[56], t.B[62], t.B[63], t.N, t.PADST)) =
      some (0x80, 0, 0, 0, .more) := by decide
/-- R121: T = 0 with `B[0..3] = 61 62 63 80`. -/
theorem test_wld :
    seen (exec (.wld 0) { blank with B := ((((blank.B.set 0 0x61).set 1 0x62).set 2 0x63).set 3 0x80) })
      (fun t => (t.W[0], t.PH, t.T)) = some (0x61626380, .wload, 1) := by decide
/-- R122: T = 17 of the block of "abc". -/
theorem test_wex :
    seen (exec (.wex 17) { blank with W := (blank.W.set 0 0x61626380).set 15 0x00000018 })
      (fun t => (t.W[17], t.PH, t.T)) = some (0x000f0000, .wexp, 18) := by decide
/-- R132. -/
theorem test_rld : seen (exec (.rld 0) digested) (fun t => (t.r[0], t.r[7], t.PH)) =
    some (0xba7816bf, 0xf20015ad, .round) := by decide
/-- R133: round 0 of the block of "abc". -/
theorem test_rnd :
    seen (exec (.rnd 0) { blank with r := Vector.ofFn Config.IV, W := blank.W.set 0 0x61626380 }) (fun t => t.r) =
      some #v[0x5d6aebcd, 0x6a09e667, 0xbb67ae85, 0x3c6ef372, 0xfa2a4622, 0x510e527f, 0x9b05688c, 0x1f83d9ab] := by
  decide
/-- R134: the one block of "abc". -/
theorem test_feed :
    seen (exec (.feed 0) { blank with
        H := Vector.ofFn Config.IV, PADST := .last,
        r := #v[0x506e3058, 0xd39a2165, 0x04d24d6c, 0xb85e2ce9, 0x5ef50f24, 0xfb121210, 0x948d25b6, 0x961f4894] })
      (fun t => (t.H, t.PH, t.PADST)) = some (digested.H, .done, .none) := by decide
/-- R181: in ABSORB with N = 3, `0x0000 -> 0x0000031f`. -/
theorem test_illegal :
    seen (step (with_ (absorbing 3) [.command 0x0000])) (fun t => (t.PH, t.responses)) =
      some (.fault, [0x0000031f]) := by decide

/-! ### The word functions, values of 95_test_vectors.md section 3 -/

theorem test_mixing :
    bsig0 0x12345678 = 0x66146474 ∧ bsig1 0x12345678 = 0x3561abda ∧ ssig0 0x12345678 = 0xe7fce6ee ∧
    ssig1 0x12345678 = 0xa1f78649 ∧ ssig0 0xffffffff = 0x1fffffff ∧ ssig1 0xffffffff = 0x003fffff := by decide
theorem test_choose_majority :
    ch 0x0f0f0f0f 0x12345678 0x9abcdef0 = 0x92b4d6f8 ∧ maj 0x0f0f0f0f 0x12345678 0x9abcdef0 = 0x1a3c5e78 := by decide

/-! ### The source's two known answers (95_test_vectors.md section 1) -/

set_option maxRecDepth 100000 in
theorem test_hash_empty :
    ((Reference.hash []).map fun d => String.ofList (Reference.hex d.toList)) =
      some "e3b0c44298fc1c149afbf4c8996fb92427ae41e4649b934ca495991b7852b855" := by decide
set_option maxRecDepth 100000 in
theorem test_hash_abc :
    ((Reference.hash [0x61, 0x62, 0x63]).map fun d => String.ofList (Reference.hex d.toList)) =
      some "ba7816bf8f01cfea414140de5dae2223b00361a396177a9cb410ff61f20015ad" := by decide

/-! ### Witnesses: states and operands that meet a statement's hypotheses, each clause at a boundary -/

theorem witness_DecodeInvertsEncode : decode (.command 0x20FF) = .ok (.pushb 0xFF) ∧ decode (.select 0x1BF) = .ok (.rnd 63) := by
  decide
theorem witness_IllegalWordsAreReservedAndRaiseEill :
    (with_ blank [.command 0x0FFF]).ready = true ∧ decodeCommand 0x0FFF = .error .mustBeZeroField ∧
    (with_ blank [.command 0x0FFF]).PH ≠ .fault ∧
    (with_ faulted [.command 0x7000]).ready = true ∧ decodeCommand 0x7000 = .error .reservedOperation ∧
    (with_ faulted [.command 0x7000]).PH = .fault := by decide
theorem witness_EveryTransferGivesOneResponse :
    (with_ digested [.command 0x4007]).ready = true ∧ digested.PH = .done ∧ decodeCommand 0x4007 = .ok (.rdw 7) ∧
    decodeCommand 0x501F = .ok (.rdb 31) ∧ decodeCommand 0x6000 = .ok .stat ∧
    (with_ blank [.command 0x4007]).ready = true ∧ blank.PH ≠ .done := by decide
theorem witness_PushsRefusesCodesAboveOneByte :
    'ÿ'.toNat = 255 ∧ 'Ā'.toNat = 256 := ⟨rfl, rfl⟩
theorem witness_StepRunsTheTransferredCommand :
    (with_ faulted [.command 0xF000]).ready = true ∧ decodeCommand 0xF000 = .ok .srst := by decide
theorem witness_StepRunsTheSelectedMicroOperation :
    decodeMicroOp (inPhase .wexp 63 .none).selection = .ok (.wex 63) ∧ (inPhase .wexp 63 .none).busy = true ∧
    (with_ (inPhase .wexp 63 .none) []).hostHolds = true ∧
    (with_ (inPhase .wexp 63 .none) [.command 0x6000]).hostHolds = true ∧
    (with_ (inPhase .wexp 63 .none) [.idle]).pending = [.idle] := by decide
theorem witness_ThePhaseSelectsTheMicroOperation :
    blank.ready = true ∧ (inPhase .pad 0 .first).PH = .pad ∧ (inPhase .wload 15 .none).PH = .wload ∧
    (inPhase .wexp 16 .none).PH = .wexp ∧ (inPhase .rload 0 .none).PH = .rload ∧
    (inPhase .round 63 .none).PH = .round ∧ (inPhase .feed 0 .last).PH = .feed := by decide
theorem witness_AReadyEngineWaits :
    blank.ready = true ∧ blank.pending = [] ∧ (with_ digested [.idle]).ready = true := by decide
theorem witness_ACommandIsHeldWhileBusy :
    (with_ (inPhase .feed 0 .last) [.command 0x0000]).busy = true ∧
    ∃ t, step (with_ (inPhase .feed 0 .last) [.command 0x0000]) = .next t := ⟨by decide, _, rfl⟩
theorem witness_CommandsAreDiscardedInFaultAndHeldWhileBusy :
    Instr.init.isCommand = true ∧ faulted.PH = .fault ∧ Instr.init ≠ .srst ∧ (inPhase .pad 0 .first).busy = true := by
  decide
theorem witness_InitOpensAFreshContext :
    blank.PH = .idle ∧ (absorbing 63).PH = .absorb ∧ digested.PH = .done ∧ blank.ECODE = .enone := by decide
theorem witness_PushbAppendsOneMessageByte :
    (absorbing 62).PH = .absorb ∧ (absorbing 62).N.toNat < 63 ∧ (absorbing 63).N.toNat = 63 ∧
    (absorbing 63).LEN.toNat ≠ 2 ^ 64 - 8 ∧ (absorbing 63).LEN.toNat % 8 = 0 ∧
    (absorbing (2 ^ 61 - 2)).LEN.toNat = 2 ^ 64 - 16 ∧ (absorbing (2 ^ 61 - 1)).LEN.toNat = 2 ^ 64 - 8 ∧
    blank.PH = .idle ∧ digested.PH = .done ∧ faulted.PH = .fault ∧
    (with_ (inPhase .wload 15 .none) [.command 0x20FF]).busy = true ∧ (0x2000 ||| (0xFF#8).zeroExtend 16) = 0x20FF#16 ∧
    ∃ t, step (with_ (inPhase .wload 15 .none) [.command 0x20FF]) = .next t :=
  ⟨by decide, by decide, by decide, by decide, by decide, by decide, by decide, by decide, by decide, by decide,
    by decide, by decide, _, rfl⟩
theorem witness_FinalStartsPadding :
    (absorbing 0).PH = .absorb ∧ (absorbing 63).PH = .absorb ∧ (absorbing 63).ECODE = .enone ∧ blank.PH = .idle ∧
    digested.PH = .done := by decide
theorem witness_RdwReadsADigestWord : digested.PH = .done ∧ blank.PH = .idle ∧ (absorbing 0).PH = .absorb := by decide
theorem witness_RdbReadsADigestByte : digested.PH = .done ∧ blank.PH = .idle ∧ (absorbing 0).PH = .absorb := by decide
theorem witness_StatReadsTheStatus : faulted.ready = true ∧ blank.ready = true := by decide
theorem witness_SrstResetsTheControlState :
    faulted.ready = true ∧ (absorbing 63).ready = true ∧ Instr.init.isCommand = true ∧ Instr.init ≠ .srst ∧
    faulted.PH = .fault ∧ (∃ t, exec .init faulted = .next t) ∧
    (with_ (inPhase .round 63 .none) [.command 0xF000]).busy = true ∧
    ∃ t, step (with_ (inPhase .round 63 .none) [.command 0xF000]) = .next t :=
  ⟨by decide, by decide, by decide, by decide, by decide, ⟨_, rfl⟩, by decide, _, rfl⟩
theorem witness_PadbBuildsThePaddingBlock :
    (padding .first 0 0).PADST = .first ∧ (padding .first 55 440).N.toNat ≤ 55 ∧ 56 ≤ (padding .first 56 448).N.toNat ∧
    (padding .first 63 504).PADST = .first ∧ (padding .more 0 (2 ^ 64 - 8)).PADST = .more := by decide
theorem witness_WldLoadsABigEndianWord : (0 : BitVec 6).toNat < 16 ∧ (15 : BitVec 6).toNat < 16 ∧ (14 : BitVec 6) ≠ 15 := by
  decide
theorem witness_WexComputesAScheduleWord : 16 ≤ (16 : BitVec 6).toNat ∧ 16 ≤ (63 : BitVec 6).toNat ∧ (62 : BitVec 6) ≠ 63 := by
  decide
theorem witness_RndRunsOneRound :
    ∃ t1 t2 : Word, t1 = blank.r[7] + bsig1 blank.r[4] + ch blank.r[4] blank.r[5] blank.r[6] + Config.K 63 + blank.W[63] ∧
      t2 = bsig0 blank.r[0] + maj blank.r[0] blank.r[1] blank.r[2] := ⟨_, _, rfl, rfl⟩
theorem witness_FeedAddsIntoTheDigest :
    (inPhase .feed 0 .none).PADST ≠ .first ∧ (inPhase .feed 0 .more).PADST ≠ .first ∧
    (inPhase .feed 0 .last).PADST ≠ .first := by decide
theorem witness_MicroOperationsStopWhereThereIsNoStep :
    (Instr.wex 15).wellFormed = false ∧ (inPhase .pad 0 .none).PADST = .none ∧ (inPhase .pad 0 .last).PADST = .last ∧
    (inPhase .feed 0 .first).PADST = .first := by decide
/-- The stops of 93_implementation_defined.md U10 at their edges. -/
theorem test_stops :
    stop (exec (.wld 16) blank) = some .stepIndexOutOfRange ∧ stop (exec (.wex 15) blank) = some .stepIndexOutOfRange ∧
    stop (exec (.padb 0) blank) = some .padbWithoutPadding ∧
    stop (exec (.feed 0) (inPhase .feed 0 .first)) = some .feedBeforePadding := by decide
theorem witness_EveryStepKeepsTheStateConsistent :
    (with_ (absorbing 63) [.command 0x2000]).consistent = true ∧
    ∃ t, step (with_ (absorbing 63) [.command 0x2000]) = .next t := ⟨by decide, _, rfl⟩
theorem witness_NoRunOfAConsistentStateStops :
    blank.consistent = true ∧ (padding .first 56 448).consistent = true ∧ (padding .more 0 448).consistent = true ∧
    (inPhase .wload 15 .none).consistent = true ∧ (inPhase .wexp 16 .last).consistent = true ∧
    (inPhase .feed 0 .none).consistent = true ∧ digested.consistent = true ∧ faulted.consistent = true := by decide
theorem witness_PhasesFollowThePhaseTable : ∃ t, step (inPhase .round 63 .last) = .next t := ⟨_, rfl⟩
theorem witness_StatusTellsTheHostWhereTheEngineIs :
    blank.consistent = true ∧ blank.PH = .idle ∧ (absorbing 63).consistent = true ∧ (absorbing 63).PH = .absorb ∧
    (padding .first 63 504).consistent = true ∧ (padding .first 63 504).PH = .pad ∧
    (inPhase .wload 0 .none).consistent = true ∧ (inPhase .wload 0 .none).PH = .wload ∧ digested.consistent = true ∧
    digested.PH = .done ∧ faulted.consistent = true ∧ faulted.PH = .fault := by decide
/-- Two states that differ in every byte of the buffer that is not live. -/
theorem witness_StaleDataIsNeverRead :
    ∃ s t s' : State, s.consistent = true ∧ s.sameControl t ∧ s.sameLive t ∧ t.pending = s.pending ∧
      t.responses = s.responses ∧ step s = .next s' ∧ s.B ≠ t.B :=
  ⟨with_ (absorbing 0) [.command 0x3000], { with_ (absorbing 0) [.command 0x3000] with B := Vector.replicate 64 1 }, _,
    by decide, ⟨rfl, rfl, rfl, rfl, rfl, rfl⟩, ⟨rfl, fun _ h => absurd h (Nat.not_lt_zero _)⟩, rfl, rfl, rfl, by decide⟩
theorem witness_MemReadReturnsWhatMemWriteWrote : 56 + 8 ≤ 64 ∧ 63 + 1 ≤ 64 ∧ 0 < 8 := by decide
/-- Two states with different data and different bytes to push. -/
theorem witness_DataNeverSteersControl :
    ∃ s t s' : State, s.sameControl t ∧ List.Forall₂ HostEvent.sameShape s.pending t.pending ∧ step s = .next s' ∧
      s.H ≠ t.H ∧ s.pending ≠ t.pending :=
  ⟨with_ { digested with PH := .absorb } [.command 0x2001], with_ (absorbing 0) [.command 0x20FF], _,
    ⟨rfl, rfl, rfl, rfl, rfl, rfl⟩, .cons (.inr ⟨0x01, 0xFF, rfl, rfl⟩) .nil, rfl, by decide, by decide⟩
theorem witness_RotationIsCircular : 1 ≤ 1 ∧ 1 ≤ 31 ∧ 31 ≤ 31 ∧ 31 < 32 := by decide
theorem witness_ShiftChooseAndMajority : (0 : Nat) < 32 ∧ 31 < 32 := by decide
theorem witness_MixingFunctionsBitByBit : (0 : Nat) < 32 ∧ 31 < 32 := by decide
theorem witness_PushedMessageIsHandedOverInPaddedBlocks :
    (absorbing 0).PH = .absorb ∧ (absorbing 0).N = 0 ∧ (absorbing 0).LEN = 0 ∧ (absorbing 0).PADST = .none ∧
    [0x61, 0x62].length < 2 ^ 61 ∧
    Assembler.hostEvents (Assembler.pushes [0x61, 0x62] ++ [.final]) =
      [.command 0x2061, .command 0x2062, .command 0x3000] := by decide
theorem witness_ScheduleRunComputesExpand :
    (inPhase .wload 0 .last).PH = .wload ∧ (inPhase .wload 0 .last).T = 0 ∧ (inPhase .wload 0 .last).hostHolds = true := by
  decide
theorem witness_BlockRunComputesCompress :
    (inPhase .rload 0 .more).PADST ≠ .first ∧ (inPhase .rload 0 .more).hostHolds = true ∧
    (inPhase .rload 0 .more).T = 0 ∧ (inPhase .rload 0 .more).PH = .rload ∧ (inPhase .wload 0 .last).PADST ≠ .first ∧
    (inPhase .wload 0 .last).hostHolds = true ∧ (inPhase .wload 0 .last).T = 0 ∧
    (inPhase .wload 0 .last).PH = .wload := by decide
theorem witness_BusyPeriodsEndOnTime :
    (inPhase .wload 0 .none).consistent = true ∧ (inPhase .wload 0 .none).hostHolds = true ∧
    (padding .first 55 440).consistent = true ∧ (padding .first 55 440).N.toNat ≤ 55 ∧
    (padding .first 56 448).consistent = true ∧ 56 ≤ (padding .first 56 448).N.toNat ∧
    (padding .first 56 448).PADST = .first ∧ (padding .first 56 448).hostHolds = true := by decide
theorem witness_TransactionComputesTheHash :
    ∃ (s : State) (m : List Byte), s.ready = true ∧ s.PH ≠ .fault ∧ m.length < 2 ^ 61 ∧
      s.pending = transaction m ++ Assembler.hostEvents (Assembler.rddigCommands ++ Assembler.rdhexCommands) :=
  ⟨with_ digested
      (transaction [0x61] ++ Assembler.hostEvents (Assembler.rddigCommands ++ Assembler.rdhexCommands)), [0x61],
    by decide, by decide, by decide, rfl⟩
theorem witness_DigestIgnoresHistoryWaitsAndStatus :
    digested.ready = true ∧ digested.PH ≠ .fault ∧ ([0x61] : List Byte).length < 2 ^ 61 ∧
    [.idle, .command 0x1000, .command 0x6000, .command 0x2061, .idle, .command 0x3000, .idle].filter HostEvent.matters =
      transaction [0x61] := by decide
theorem witness_DigestStaysUntilItIsGivenUp :
    digested.PH = .done ∧ ∃ t, step (with_ digested [.command 0x4000]) = .next t := ⟨rfl, _, rfl⟩
theorem witness_TransferRaisesTheFaultOfItsPriority :
    faultOf 0x20FF (with_ (absorbing (2 ^ 61 - 1)) [.command 0x20FF]) = .elen ∧
    faultOf 0x20FF (with_ blank [.command 0x20FF]) = .eseq ∧ faultOf 0x4000 (with_ digested [.command 0x4000]) = .enone ∧
    faultOf 0x7000 (with_ blank [.command 0x7000]) = .eill ∧ blank.ready = true ∧ blank.PH ≠ .fault ∧
    faulted.ready = true ∧ faulted.PH = .fault := by decide
theorem witness_OnlyTransfersRaiseFaults :
    ∃ s t : State, s.PH ≠ .fault ∧ step s = .next t ∧ t.PH = .fault :=
  ⟨with_ blank [.command 0x3000], _, by decide, rfl, rfl⟩
theorem witness_FaultPhaseDiscardsAllButSrst :
    faulted.PH = .fault ∧ (0xF000 : BitVec 16) ≠ 0xF001 ∧ (with_ faulted [.command 0xF001]).pending = [.command 0xF001] := by
  decide
theorem witness_FaultStaysUntilReset : faulted.PH = .fault ∧ ∃ t, step (with_ faulted [.command 0x1000]) = .next t :=
  ⟨rfl, _, rfl⟩
theorem witness_HardwareResetActsInAnyPhase :
    (with_ (inPhase .round 31 .none) [.reset, .idle]).pending = [.reset, .idle] := by decide
theorem witness_HardwareResetLeavesNoOldData :
    ∃ s t s' t' : State, s.pending = [.reset] ∧ t.pending = [.reset] ∧ s.resets = t.resets ∧ step s = .next s' ∧
      step t = .next t' ∧ s.H ≠ t.H :=
  ⟨with_ digested [.reset], with_ (absorbing 3) [.reset], _, _, rfl, rfl, rfl, rfl, rfl, by decide⟩
theorem witness_ResetsLookAlikeToTheHost :
    ∃ t : State, blank.PH = .idle ∧ blank.T = 0 ∧ blank.N = 0 ∧ blank.LEN = 0 ∧ blank.PADST = .none ∧
      blank.ECODE = .enone ∧ blank.sameControl t ∧ t.pending = blank.pending ∧ t.responses = blank.responses ∧
      blank.H ≠ t.H :=
  ⟨{ blank with H := digested.H }, rfl, rfl, rfl, rfl, rfl, rfl, ⟨rfl, rfl, rfl, rfl, rfl, rfl⟩, rfl, rfl, by decide⟩

end Sys2Proof.Tests
end

section
/-! The rules of a consistent state, phase by phase, with every rule spelled out (10_state.md R15, R16, R17, R19, R20). -/

namespace Sys2Proof.Machine

theorem State.consistent_idle {s : State} (h : s.PH = .idle) :
    s.consistent = true ↔ s.T = 0 ∧ s.PADST = .none ∧ s.ECODE = .enone ∧ s.N = 0 ∧ s.LEN = 0 := by
  rw [State.consistent_iff, State.countFits_idle h]
  simp only [h, Phase.usesIndex, Phase.allowsPadding, decide_eq_true_eq]
  grind

theorem State.consistent_absorb {s : State} (h : s.PH = .absorb) :
    s.consistent = true ↔
      s.T = 0 ∧ s.PADST = .none ∧ s.ECODE = .enone ∧ s.LEN.extractLsb' 0 3 = 0 ∧ s.N = s.bytesMod64 := by
  rw [State.consistent_iff, State.countFits_absorb h]
  simp [h, Phase.usesIndex, Phase.allowsPadding]

theorem State.consistent_padFirst {s : State} (h : s.PH = .pad) (hq : s.PADST = .first) :
    s.consistent = true ↔ s.T = 0 ∧ s.ECODE = .enone ∧ s.LEN.extractLsb' 0 3 = 0 ∧ s.N = s.bytesMod64 := by
  rw [State.consistent_iff, State.countFits_padFirst h hq]
  simp [h, hq, Phase.usesIndex, Phase.allowsPadding]

theorem State.consistent_padMore {s : State} (h : s.PH = .pad) (hq : s.PADST = .more) :
    s.consistent = true ↔
      s.T = 0 ∧ s.ECODE = .enone ∧ s.LEN.extractLsb' 0 3 = 0 ∧ s.N = 0 ∧ 56 ≤ s.bytesMod64.toNat := by
  rw [State.consistent_iff, State.countFits_padMore h hq]
  simp [h, hq, Phase.usesIndex, Phase.allowsPadding]

/-- In the phases that process a block only the step index tells one phase from the other. -/
theorem State.consistent_block {s : State}
    (h : s.PH = .wload ∨ s.PH = .wexp ∨ s.PH = .rload ∨ s.PH = .round ∨ s.PH = .feed) :
    s.consistent = true ↔
      s.PH.usesIndex s.T = true ∧ s.PADST ≠ .first ∧ s.ECODE = .enone ∧ s.LEN.extractLsb' 0 3 = 0 ∧
        s.N = 0 ∧ (s.PADST = .none → s.bytesMod64 = 0) ∧ (s.PADST = .more → 56 ≤ s.bytesMod64.toNat) := by
  rw [State.consistent_iff, State.countFits_block h]
  rcases h with h | h | h | h | h <;> simp [h, Phase.allowsPadding]

theorem State.consistent_done {s : State} (h : s.PH = .done) :
    s.consistent = true ↔
      s.T = 0 ∧ s.PADST = .none ∧ s.ECODE = .enone ∧ s.LEN.extractLsb' 0 3 = 0 ∧ s.N = 0 := by
  rw [State.consistent_iff, State.countFits_done h]
  simp [h, Phase.usesIndex, Phase.allowsPadding]

theorem State.consistent_fault {s : State} (h : s.PH = .fault) :
    s.consistent = true ↔ s.T = 0 ∧ s.PADST = .none ∧ s.ECODE ≠ .enone ∧ s.LEN.extractLsb' 0 3 = 0 := by
  rw [State.consistent_iff, State.countFits_fault h]
  simp [h, Phase.usesIndex, Phase.allowsPadding]

/-- What the ready phases share (R17, R19, R16). -/
theorem State.consistent_ready {s : State} (hc : s.consistent = true) (hr : s.ready = true) :
    s.T = 0 ∧ s.PADST = .none ∧ s.LEN.extractLsb' 0 3 = 0 := by
  obtain ⟨hT, hq, -, hlen, -⟩ := s.consistent_iff.1 hc
  rcases s.ready_iff.1 hr with h | h | h | h <;> simp_all [Phase.usesIndex, Phase.allowsPadding]

/-- ECODE is ENONE outside FAULT (R20). -/
theorem State.consistent_ecode {s : State} (hc : s.consistent = true) (hf : s.PH ≠ .fault) : s.ECODE = .enone := by
  obtain ⟨-, -, he, -, -⟩ := s.consistent_iff.1 hc
  grind

end Sys2Proof.Machine
end

section
/-! What a transferred command can do to a ready engine that is not in FAULT (44_driver_and_commands.md R150). -/

namespace Sys2Proof.Machine

/-- The command's effect, inverted: a fault, a context opened, a byte taken in, the padding begun, a response alone, the
control state reset, or (for an instruction that is no command) nothing. -/
theorem commandEffect_cases (s : State) (d : Except Reject Instr) :
    (∃ e, e ≠ .enone ∧ commandEffect s d = s.raiseFault e) ∨
    (d = .ok .init ∧ commandEffect s d =
      ({ loadIV s with N := 0, LEN := 0, PADST := .none }.setSeq .absorb 0).respondStatus) ∨
    (∃ b, d = .ok (.pushb b) ∧ s.PH = .absorb ∧ s.LEN ≠ lenMax ∧
      commandEffect s d = (appendByte s b).respondStatus) ∨
    (d = .ok .final ∧ s.PH = .absorb ∧
      commandEffect s d = ({ s with PADST := .first }.setSeq .pad 0).respondStatus) ∨
    (∃ v, (d = .ok .stat ∨ s.PH = .done) ∧ commandEffect s d = s.respond v) ∨
    (d = .ok .srst ∧ commandEffect s d = s.controlReset.respondStatus) ∨
    commandEffect s d = s := by
  have hseq (h : commandEffect s d = s.raiseFault .eseq) :
      ∃ e, e ≠ .enone ∧ commandEffect s d = s.raiseFault e := ⟨_, by decide, h⟩
  cases d with
  | error e => exact .inl ⟨.eill, by decide, rfl⟩
  | ok i =>
    cases i with
    | init => exact .inr (.inl ⟨rfl, rfl⟩)
    | pushb b =>
      by_cases hp : s.PH = .absorb
      · by_cases hmax : s.LEN = lenMax
        · exact .inl ⟨.elen, by decide, by simp [commandEffect, hp, hmax]⟩
        · exact .inr (.inr (.inl ⟨b, rfl, hp, hmax, by simp [commandEffect, hp, hmax]⟩))
      · exact .inl (hseq (if_pos hp))
    | final =>
      by_cases hp : s.PH = .absorb
      · exact .inr (.inr (.inr (.inl ⟨rfl, hp, if_neg (not_not.2 hp)⟩)))
      · exact .inl (hseq (if_pos hp))
    | rdw _ | rdb _ =>
      by_cases hp : s.PH = .done
      · exact .inr (.inr (.inr (.inr (.inl ⟨_, .inr hp, if_neg (not_not.2 hp)⟩))))
      · exact .inl (hseq (if_pos hp))
    | stat => exact .inr (.inr (.inr (.inr (.inl ⟨_, .inl rfl, rfl⟩))))
    | srst => exact .inr (.inr (.inr (.inr (.inr (.inl ⟨rfl, rfl⟩)))))
    | padb _ | wld _ | wex _ | rld _ | rnd _ | feed _ => exact .inr (.inr (.inr (.inr (.inr (.inr rfl)))))

end Sys2Proof.Machine
end

section
/-! Every step keeps the rules of a consistent state. -/

namespace Sys2Proof.Machine

/-! ### The commands keep the rules -/

theorem raiseFault_consistent {s : State} (hc : s.consistent = true) (hr : s.ready = true) {e : ErrorCode}
    (he : e ≠ .enone) : (s.raiseFault e).consistent = true := by
  obtain ⟨hT, hq, hlen⟩ := State.consistent_ready hc hr
  exact (State.consistent_fault rfl).2 ⟨hT, hq, he, hlen⟩

theorem controlReset_consistent (s : State) : s.controlReset.consistent = true :=
  (State.consistent_idle rfl).2 ⟨rfl, rfl, rfl, rfl, rfl⟩

theorem hardwareReset_consistent (s : State) : s.hardwareReset.consistent = true :=
  (State.consistent_idle rfl).2 ⟨rfl, rfl, rfl, rfl, rfl⟩

/-- The next byte goes with `N + 1`, or fills the block, where `N` and the byte count are 0 modulo 64 (R107). -/
theorem appendByte_consistent {s : State} (hc : s.consistent = true) (hp : s.PH = .absorb) (d : Byte) :
    (appendByte s d).consistent = true := by
  obtain ⟨hT, hq, he, hlen, hN⟩ := (State.consistent_absorb hp).1 hc
  have hlen' : (s.LEN + 8#64).extractLsb' 0 3 = 0 := length_multiple_of_eight_add s.LEN hlen
  have hbytes : (appendByte s d).bytesMod64 = s.N + 1 := by
    rw [State.bytesMod64, appendByte_LEN, bytes_mod_64_add s.LEN hlen, hN, State.bytesMod64]
  by_cases h63 : s.N = 63#6
  · have hb : (appendByte s d).bytesMod64 = 0 := by rw [hbytes, h63]; rfl
    rw [State.consistent_block (by simp [h63])]
    simp [h63, hq, he, hlen', hb, Phase.usesIndex]
  · rw [State.consistent_absorb (by simp [h63, hp]), hbytes]
    simp [h63, hT, hq, he, hlen']

theorem commandEffect_consistent {s : State} (hc : s.consistent = true) (hr : s.ready = true) (hf : s.PH ≠ .fault)
    (d : Except Reject Instr) : (commandEffect s d).consistent = true := by
  rcases commandEffect_cases s d with ⟨e, he, h⟩ | ⟨-, h⟩ | ⟨b, -, hp, -, h⟩ | ⟨-, hp, h⟩ | ⟨v, -, h⟩ | ⟨-, h⟩ | h
  all_goals rw [h]
  · exact raiseFault_consistent hc hr he
  · have he := State.consistent_ecode hc hf
    exact (State.consistent_absorb rfl).2 ⟨rfl, rfl, he, rfl, by simp [State.bytesMod64]⟩
  · exact appendByte_consistent hc hp b
  · obtain ⟨-, -, he, hlen, hN⟩ := (State.consistent_absorb hp).1 hc
    exact (State.consistent_padFirst rfl rfl).2 ⟨rfl, he, hlen, hN⟩
  · exact hc
  · exact controlReset_consistent s
  · exact hc

/-! ### The micro-operations keep the rules -/

/-- Inside the processing of a block a micro-operation moves the sequencer counter alone. -/
theorem consistent_of_block {s t : State} (hc : s.consistent = true)
    (hs : s.PH = .wload ∨ s.PH = .wexp ∨ s.PH = .rload ∨ s.PH = .round ∨ s.PH = .feed)
    (ht : t.PH = .wload ∨ t.PH = .wexp ∨ t.PH = .rload ∨ t.PH = .round ∨ t.PH = .feed)
    (hT : t.PH.usesIndex t.T = true) (hN : t.N = s.N) (hL : t.LEN = s.LEN) (hq : t.PADST = s.PADST)
    (he : t.ECODE = s.ECODE) : t.consistent = true := by
  obtain ⟨-, h⟩ := (State.consistent_block hs).1 hc
  refine (State.consistent_block ht).2 ⟨hT, ?_⟩
  rwa [State.bytesMod64, hN, hL, hq, he]

theorem padFirst_consistent {s : State} (hc : s.consistent = true) (hp : s.PH = .pad) (hq : s.PADST = .first) :
    (padDone (padFirst s)).consistent = true := by
  obtain ⟨-, he, hlen, hN⟩ := (State.consistent_padFirst hp hq).1 hc
  rw [State.consistent_block (.inl rfl)]
  have hb : (padDone (padFirst s)).bytesMod64 = s.N := by simp [State.bytesMod64, hN]
  rw [hb]
  by_cases h55 : s.N.toNat ≤ 55
  · simp [h55, he, hlen, Phase.usesIndex]
  · simp [h55, he, hlen, Phase.usesIndex]
    omega

theorem padMore_consistent {s : State} (hc : s.consistent = true) (hp : s.PH = .pad) (hq : s.PADST = .more) :
    (padDone (padMore s)).consistent = true := by
  obtain ⟨-, he, hlen, -, -⟩ := (State.consistent_padMore hp hq).1 hc
  rw [State.consistent_block (.inl rfl)]
  simp [he, hlen, Phase.usesIndex]

theorem afterWld_consistent {s : State} (hc : s.consistent = true) (hp : s.PH = .wload) (h : s.T.toNat < 16) :
    (afterWld s s.T h).consistent = true := by
  refine consistent_of_block hc (by simp [hp]) ?_ ?_ rfl rfl rfl rfl
  · by_cases h15 : s.T = 15#6 <;> simp [h15]
  · by_cases h15 : s.T = 15#6
    · simp [h15, Phase.usesIndex]
    · simp [h15, Phase.usesIndex]
      bv_omega

theorem afterWex_consistent {s : State} (hc : s.consistent = true) (hp : s.PH = .wexp) (h : 16 ≤ s.T.toNat) :
    (afterWex s s.T h).consistent = true := by
  refine consistent_of_block hc (by simp [hp]) ?_ ?_ rfl rfl rfl rfl
  · by_cases h63 : s.T = 63#6 <;> simp [h63]
  · by_cases h63 : s.T = 63#6
    · simp [h63, Phase.usesIndex]
    · simp [h63, Phase.usesIndex]
      bv_omega

theorem afterRld_consistent {s : State} (hc : s.consistent = true) (hp : s.PH = .rload) :
    (afterRld s).consistent = true :=
  consistent_of_block hc (by simp [hp]) (by simp) rfl rfl rfl rfl rfl

theorem afterRnd_consistent {s : State} (hc : s.consistent = true) (hp : s.PH = .round) :
    (afterRnd s s.T).consistent = true := by
  refine consistent_of_block hc (by simp [hp]) ?_ ?_ rfl rfl rfl rfl
  all_goals by_cases h63 : s.T = 63#6 <;> simp [h63, Phase.usesIndex]

/-- FEED goes back to taking in bytes, to the extra padding block or to DONE, with `N = 0` (R134). -/
theorem afterFeed_consistent {s : State} (hc : s.consistent = true) (hp : s.PH = .feed) :
    (afterFeed s).consistent = true := by
  obtain ⟨-, hq, he, hlen, hN, hnone, hmore⟩ := (State.consistent_block (by simp [hp])).1 hc
  have hb : (afterFeed s).bytesMod64 = s.bytesMod64 := rfl
  cases hq' : s.PADST with
  | none =>
    rw [State.consistent_absorb (by simp [hq', feedGoesTo]), hb, hnone hq']
    simp [hq', he, hlen, hN]
  | first => exact absurd hq' hq
  | more =>
    rw [State.consistent_padMore (by simp [hq', feedGoesTo]) (by simp [hq']), hb]
    simp [he, hlen, hN, hmore hq']
  | last =>
    rw [State.consistent_done (by simp [hq', feedGoesTo])]
    simp [hq', he, hlen, hN]

theorem sequencerStep_consistent {s t : State} (hc : s.consistent = true) (h : sequencerStep s = .next t) :
    t.consistent = true := by
  rcases sequencerStep_next h with ⟨-, rfl⟩ | ⟨hp, -, hq, rfl⟩ | ⟨hp, -, hq, rfl⟩ | ⟨hp, hT, rfl⟩ | ⟨hp, hT, rfl⟩ |
    ⟨hp, -, rfl⟩ | ⟨hp, rfl⟩ | ⟨hp, -, -, rfl⟩
  · exact hc
  · exact padFirst_consistent hc hp hq
  · exact padMore_consistent hc hp hq
  · exact afterWld_consistent hc hp hT
  · exact afterWex_consistent hc hp hT
  · exact afterRld_consistent hc hp
  · exact afterRnd_consistent hc hp
  · exact afterFeed_consistent hc hp

/-- Settles O30: a reset and SRST give the reset control state; each command and each micro-operation keeps the rules by
its own lemma. -/
theorem everyStepKeepsTheStateConsistent : Obligations.EveryStepKeepsTheStateConsistent := by
  intro s t hc h
  rcases step_next h with ⟨rest, -, rfl⟩ | ⟨c, rest, -, hr, hf, rfl⟩ | ⟨c, rest, -, -, rfl⟩ | ⟨p, -, hseq⟩
  · exact hardwareReset_consistent _
  · exact commandEffect_consistent (s := { s with pending := rest }) hc hr hf _
  · split_ifs
    · exact controlReset_consistent { s with pending := rest }
    · exact hc
  · exact sequencerStep_consistent (s := { s with pending := p }) hc hseq

end Sys2Proof.Machine
end

section
/-! The reset state and the STATUS view (10_state.md R21, R22, R26). -/

namespace Sys2Proof.Machine

/-- Settles O29: the reset control state is that of IDLE, and every view of it is computed from its fields. -/
theorem resetLeavesTheControlStateAtZero : Obligations.ResetLeavesTheControlStateAtZero :=
  ⟨rfl, rfl, rfl, rfl, rfl, rfl, by decide, rfl, rfl, rfl, rfl,
    (State.consistent_idle rfl).2 ⟨rfl, rfl, rfl, rfl, rfl⟩⟩

/-- STATUS by number (R21): its concatenated fields do not overlap. -/
theorem status_toNat (s : State) :
    s.status.toNat = s.PH.code.toNat + 16 * s.ECODE.code.toNat + 256 * s.N.toNat := by
  have hp := s.PH.code.isLt
  have he := s.ECODE.code.isLt
  unfold State.status
  rw [BitVec.toNat_append, BitVec.toNat_append, BitVec.toNat_append, BitVec.toNat_append,
    ← Nat.shiftLeft_add_eq_or_of_lt hp, ← Nat.shiftLeft_add_eq_or_of_lt he,
    ← Nat.shiftLeft_add_eq_or_of_lt (show (0#2).toNat < 2 ^ 2 by decide),
    ← Nat.shiftLeft_add_eq_or_of_lt s.N.isLt]
  simp only [Nat.shiftLeft_eq, BitVec.toNat_ofNat]
  omega

/-- Settles O33: the layout by number leaves no place for a 1 in the reserved bits. -/
theorem statusLaysOutItsFields : Obligations.StatusLaysOutItsFields := by
  intro s
  have h := status_toNat s
  have hp := s.PH.code.isLt
  have he := s.ECODE.code.isLt
  have hn := s.N.isLt
  refine ⟨h, BitVec.eq_of_toNat_eq ?_, BitVec.eq_of_toNat_eq ?_⟩
  all_goals
    rw [BitVec.extractLsb'_toNat, h, Nat.shiftRight_eq_div_pow]
    change _ = 0
    omega

/-- Settles O34: outside FAULT `ECODE` is 0 in STATUS, and `N` is 0 in IDLE, WLOAD and DONE; in FAULT `ECODE` is not 0. -/
theorem statusTellsTheHostWhereTheEngineIs : Obligations.StatusTellsTheHostWhereTheEngineIs := by
  intro s hc
  have hs := status_toNat s
  refine ⟨fun hp => ?_, fun hp => ?_, fun hp => ?_, fun hp => ?_, fun hp => ?_, fun hp => ?_⟩
  · obtain ⟨-, -, he, hN, -⟩ := (State.consistent_idle hp).1 hc
    rw [State.status, hp, he, hN]
    decide
  · rw [hs, hp, State.consistent_ecode hc (by simp [hp])]
    rfl
  · rw [hs, hp, State.consistent_ecode hc (by simp [hp])]
    rfl
  · obtain ⟨-, -, he, -, hN, -⟩ := (State.consistent_block (.inl hp)).1 hc
    rw [State.status, hp, he, hN]
    decide
  · obtain ⟨-, -, he, -, hN⟩ := (State.consistent_done hp).1 hc
    rw [State.status, hp, he, hN]
    decide
  · obtain ⟨-, -, he, -⟩ := (State.consistent_fault hp).1 hc
    rw [hs, hp]
    cases hq : s.ECODE with
    | enone => exact absurd hq he
    | eill | eseq | elen => simp [Phase.code, ErrorCode.code]

end Sys2Proof.Machine
end

section
/-! Where a step lets the phase go (10_state.md R18). -/

namespace Sys2Proof.Machine

theorem Phase.goesTo_idle (p : Phase) : p.goesTo .idle = true := by cases p <;> rfl

/-- A ready phase is kept or left for FAULT. -/
theorem Phase.goesTo_of_ready {p : Phase} (h : p.ready = true) : p.goesTo p = true ∧ p.goesTo .fault = true := by
  cases p <;> simp_all [Phase.ready, Phase.goesTo]

/-- INIT opens a context from every ready phase but FAULT (R151). -/
theorem Phase.goesTo_absorb {p : Phase} (h : p.ready = true) (hf : p ≠ .fault) : p.goesTo .absorb = true := by
  cases p <;> simp_all [Phase.ready, Phase.goesTo]

theorem commandEffect_goesTo {s : State} (hr : s.ready = true) (hf : s.PH ≠ .fault) (d : Except Reject Instr) :
    s.PH.goesTo (commandEffect s d).PH = true := by
  obtain ⟨hself, hfault⟩ := Phase.goesTo_of_ready hr
  rcases commandEffect_cases s d with ⟨e, -, h⟩ | ⟨-, h⟩ | ⟨b, -, hp, -, h⟩ | ⟨-, hp, h⟩ | ⟨v, -, h⟩ | ⟨-, h⟩ | h
  all_goals rw [h]
  · exact hfault
  · exact Phase.goesTo_absorb hr hf
  · rw [State.respondStatus_PH, appendByte_PH, hp]
    split_ifs <;> rfl
  · rw [hp]; rfl
  · exact hself
  · exact Phase.goesTo_idle s.PH
  · exact hself

theorem sequencerStep_goesTo {s t : State} (h : sequencerStep s = .next t) : s.PH.goesTo t.PH = true := by
  rcases sequencerStep_next h with ⟨hr, rfl⟩ | ⟨hp, -, -, rfl⟩ | ⟨hp, -, -, rfl⟩ | ⟨hp, _, rfl⟩ | ⟨hp, _, rfl⟩ |
    ⟨hp, -, rfl⟩ | ⟨hp, rfl⟩ | ⟨hp, -, hq, rfl⟩
  · exact (Phase.goesTo_of_ready hr).1
  · rw [hp]; rfl
  · rw [hp]; rfl
  · rw [hp, afterWld_PH]; split_ifs <;> rfl
  · rw [hp, afterWex_PH]; split_ifs <;> rfl
  · rw [hp]; rfl
  · rw [hp, afterRnd_PH]; split_ifs <;> rfl
  · rw [hp, afterFeed_PH]
    cases hq' : s.PADST with
    | first => exact absurd hq' hq
    | none | more | last => rfl

/-- Settles O32: a reset goes to IDLE, a command by `commandEffect_goesTo`, a micro-operation by
`sequencerStep_goesTo`. -/
theorem phasesFollowThePhaseTable : Obligations.PhasesFollowThePhaseTable := by
  intro s t h
  rcases step_next h with ⟨rest, -, rfl⟩ | ⟨c, rest, -, hr, hf, rfl⟩ | ⟨c, rest, -, hf, rfl⟩ | ⟨p, -, hseq⟩
  · exact Phase.goesTo_idle s.PH
  · exact commandEffect_goesTo (s := { s with pending := rest }) hr hf _
  · rw [hf]
    split_ifs <;> rfl
  · exact sequencerStep_goesTo (s := { s with pending := p }) hseq

end Sys2Proof.Machine
end

section
/-! Two runs that agree in control, host and live data, whatever the rest of their data holds (10_state.md R25). -/

namespace Sys2Proof.Machine

/-- What `Obligations.StaleDataIsNeverRead` compares two states by: the control state, the live data and the host side
without the count of resets. -/
def State.agrees (s t : State) : Prop :=
  s.sameControl t ∧ s.sameLive t ∧ t.pending = s.pending ∧ t.responses = s.responses

/-! ### The live data in each phase -/

theorem State.sameLive_idle {s t : State} (h : s.PH = .idle) : s.sameLive t := by simp [State.sameLive, h]

theorem State.sameLive_fault {s t : State} (h : s.PH = .fault) : s.sameLive t := by simp [State.sameLive, h]

theorem State.sameLive_absorb {s t : State} (h : s.PH = .absorb) :
    s.sameLive t ↔ s.H = t.H ∧ ∀ i : Fin 64, i.val < s.N.toNat → s.B[i] = t.B[i] := by
  simp [State.sameLive, h]

theorem State.sameLive_padFirst {s t : State} (h : s.PH = .pad) (hq : s.PADST = .first) :
    s.sameLive t ↔ s.H = t.H ∧ ∀ i : Fin 64, i.val < s.N.toNat → s.B[i] = t.B[i] := by
  simp [State.sameLive, h, hq]

theorem State.sameLive_padMore {s t : State} (h : s.PH = .pad) (hq : s.PADST = .more) :
    s.sameLive t ↔ s.H = t.H := by
  simp [State.sameLive, h, hq]

theorem State.sameLive_wload {s t : State} (h : s.PH = .wload) :
    s.sameLive t ↔ s.H = t.H ∧ s.B = t.B ∧ ∀ i : Fin 64, i.val < s.T.toNat → s.W[i] = t.W[i] := by
  simp [State.sameLive, h]

theorem State.sameLive_wexp {s t : State} (h : s.PH = .wexp) :
    s.sameLive t ↔ s.H = t.H ∧ ∀ i : Fin 64, i.val < s.T.toNat → s.W[i] = t.W[i] := by
  simp [State.sameLive, h]

theorem State.sameLive_rload {s t : State} (h : s.PH = .rload) : s.sameLive t ↔ s.H = t.H ∧ s.W = t.W := by
  simp [State.sameLive, h]

theorem State.sameLive_round {s t : State} (h : s.PH = .round) :
    s.sameLive t ↔ s.H = t.H ∧ s.W = t.W ∧ s.r = t.r := by
  simp [State.sameLive, h]

theorem State.sameLive_feed {s t : State} (h : s.PH = .feed) : s.sameLive t ↔ s.H = t.H ∧ s.r = t.r := by
  simp [State.sameLive, h]

theorem State.sameLive_done {s t : State} (h : s.PH = .done) : s.sameLive t ↔ s.H = t.H := by
  simp [State.sameLive, h]

/-! ### Parts of a step that keep the agreement -/

theorem State.agrees.status_eq {s t : State} (h : s.agrees t) : s.status = t.status := by
  obtain ⟨⟨hp, -, hn, -, -, he⟩, -, -, -⟩ := h
  exact status_congr hp he hn

theorem State.agrees.ready_eq {s t : State} (h : s.agrees t) : s.ready = t.ready := by
  obtain ⟨⟨hp, -⟩, -⟩ := h
  rw [State.ready, State.ready, hp]

theorem State.agrees.setPending {s t : State} (h : s.agrees t) (p : List HostEvent) :
    ({ s with pending := p } : State).agrees { t with pending := p } := by
  obtain ⟨hctl, hlive, -, hresp⟩ := h
  exact ⟨hctl, hlive, rfl, hresp⟩

theorem State.agrees.respond {s t : State} (h : s.agrees t) {v w : Word} (hv : v = w) :
    (s.respond v).agrees (t.respond w) := by
  obtain ⟨hctl, hlive, hpend, hresp⟩ := h
  exact ⟨hctl, hlive, hpend, by simp [hv, hresp]⟩

theorem State.agrees.respondStatus {s t : State} (h : s.agrees t) : s.respondStatus.agrees t.respondStatus :=
  h.respond h.status_eq

theorem State.agrees.raiseFault {s t : State} (h : s.agrees t) (e : ErrorCode) :
    (s.raiseFault e).agrees (t.raiseFault e) := by
  obtain ⟨⟨-, hT, hN, hL, hq, -⟩, -, hpend, hresp⟩ := h
  have hfault : ({ s with ECODE := e }.setSeq .fault s.T).agrees ({ t with ECODE := e }.setSeq .fault t.T) :=
    ⟨⟨rfl, hT, hN, hL, hq, rfl⟩, State.sameLive_fault rfl, hpend, hresp⟩
  exact hfault.respondStatus

theorem State.agrees.controlReset {s t : State} (h : s.agrees t) : s.controlReset.agrees t.controlReset := by
  obtain ⟨-, -, hpend, hresp⟩ := h
  exact ⟨⟨rfl, rfl, rfl, rfl, rfl, rfl⟩, State.sameLive_idle rfl, hpend, hresp⟩

/-- The free data after a reset may differ, because in IDLE no data is live. -/
theorem State.agrees.hardwareReset {s t : State} (h : s.agrees t) : s.hardwareReset.agrees t.hardwareReset := by
  obtain ⟨-, -, hpend, hresp⟩ := h
  exact ⟨⟨rfl, rfl, rfl, rfl, rfl, rfl⟩, State.sameLive_idle rfl, hpend, hresp⟩

/-- The byte written at `N` joins the live bytes below it (R107). -/
theorem memWrite_byte_congr {b b' : Vector Byte 64} {n : Nat} (h : ∀ i : Fin 64, i.val < n → b[i] = b'[i]) (d : Byte)
    (i : Fin 64) (hi : i.val < n + 1) : (memWrite b n 1 d)[i] = (memWrite b' n 1 d)[i] := by
  rw [Fin.getElem_fin, Fin.getElem_fin, memWrite_byte_getElem, memWrite_byte_getElem]
  split_ifs with hin
  · rfl
  · exact h i (by omega)

theorem State.agrees.appendByte {s t : State} (h : s.agrees t) (hp : s.PH = .absorb) (d : Byte) :
    (appendByte s d).agrees (appendByte t d) := by
  obtain ⟨⟨hPH, hT, hN, hL, hq, he⟩, hlive, hpend, hresp⟩ := h
  obtain ⟨hH, hB⟩ := (State.sameLive_absorb hp).1 hlive
  have hB' := memWrite_byte_congr hB d
  refine ⟨⟨by simp [hPH, hN], by simp [hT, hN], by simp [hN], by simp [hL], by simp [hq], by simp [he]⟩, ?_,
    by simp [hpend], by simp [hresp]⟩
  by_cases h63 : s.N = 63#6
  · rw [State.sameLive_wload (by simp [h63])]
    refine ⟨by simp [hH], Vector.ext fun i hi => ?_, by simp [h63]⟩
    rw [appendByte_B, appendByte_B, ← hN]
    exact hB' ⟨i, hi⟩ (by simp [h63]; omega)
  · rw [State.sameLive_absorb (by simp [h63, hp])]
    refine ⟨by simp [hH], fun i hi => ?_⟩
    rw [appendByte_B, appendByte_B, ← hN]
    refine hB' i ?_
    simp [h63] at hi
    bv_omega

theorem State.agrees.openContext {s t : State} (h : s.agrees t) :
    ({ loadIV s with N := 0, LEN := 0, PADST := .none }.setSeq .absorb 0).agrees
      ({ loadIV t with N := 0, LEN := 0, PADST := .none }.setSeq .absorb 0) := by
  obtain ⟨⟨-, -, -, -, -, he⟩, -, hpend, hresp⟩ := h
  refine ⟨⟨rfl, rfl, rfl, rfl, rfl, he⟩, ?_, hpend, hresp⟩
  exact (State.sameLive_absorb rfl).2 ⟨rfl, fun i hi => absurd hi (Nat.not_lt_zero _)⟩

theorem State.agrees.startPadding {s t : State} (h : s.agrees t) (hp : s.PH = .absorb) :
    ({ s with PADST := .first }.setSeq .pad 0).agrees ({ t with PADST := .first }.setSeq .pad 0) := by
  obtain ⟨⟨-, -, hN, hL, -, he⟩, hlive, hpend, hresp⟩ := h
  refine ⟨⟨rfl, rfl, hN, hL, rfl, he⟩, ?_, hpend, hresp⟩
  exact (State.sameLive_padFirst rfl rfl).2 ((State.sameLive_absorb hp).1 hlive)

/-! ### A command -/

theorem State.agrees.commandEffect {s t : State} (h : s.agrees t) (d : Except Reject Instr) :
    (commandEffect s d).agrees (commandEffect t d) := by
  obtain ⟨⟨hPH, -, -, hL, -, -⟩, hlive, -, -⟩ := id h
  cases d with
  | error e => exact h.raiseFault .eill
  | ok i =>
    cases i with
    | init => exact h.openContext.respondStatus
    | pushb b =>
      simp only [Machine.commandEffect, ← hPH, ← hL]
      split_ifs with hp hmax
      · exact h.raiseFault .eseq
      · exact h.raiseFault .elen
      · exact (h.appendByte (not_not.1 hp) b).respondStatus
    | final =>
      simp only [Machine.commandEffect, ← hPH]
      split_ifs with hp
      · exact h.raiseFault .eseq
      · exact (h.startPadding (not_not.1 hp)).respondStatus
    | rdw _ | rdb _ =>
      simp only [Machine.commandEffect, ← hPH]
      split_ifs with hp
      · exact h.raiseFault .eseq
      · exact h.respond (by rw [(State.sameLive_done (not_not.1 hp)).1 hlive])
    | stat => exact h.respondStatus
    | srst => exact h.controlReset.respondStatus
    | padb _ | wld _ | wex _ | rld _ | rnd _ | feed _ => exact h

/-! ### A micro-operation -/

/-- The first padding block is the live bytes, 0x80, zeros and the length (R109): nothing else of `B` is read. -/
theorem State.agrees.padFirst {s t : State} (h : s.agrees t) (hp : s.PH = .pad) (hq : s.PADST = .first) :
    (padDone (padFirst s)).agrees (padDone (padFirst t)) := by
  obtain ⟨⟨-, -, hN, hL, -, he⟩, hlive, hpend, hresp⟩ := h
  obtain ⟨hH, hB⟩ := (State.sameLive_padFirst hp hq).1 hlive
  refine ⟨⟨rfl, rfl, rfl, by simp [hL], by simp [hN], by simp [he]⟩, ?_, by simp [hpend], by simp [hresp]⟩
  refine (State.sameLive_wload rfl).2 ⟨by simp [hH], Vector.ext fun i hi => ?_, by simp⟩
  rw [padDone_B, padDone_B, padFirst_B_getElem, padFirst_B_getElem, ← hN, ← hL]
  by_cases hin : i < s.N.toNat
  · rw [if_pos hin, if_pos hin]
    exact hB ⟨i, hi⟩ hin
  · rw [if_neg hin, if_neg hin]

/-- The extra padding block is zeros and the length (R109): nothing of `B` is read. -/
theorem State.agrees.padMore {s t : State} (h : s.agrees t) (hp : s.PH = .pad) (hq : s.PADST = .more) :
    (padDone (padMore s)).agrees (padDone (padMore t)) := by
  obtain ⟨⟨-, -, -, hL, -, he⟩, hlive, hpend, hresp⟩ := h
  have hH := (State.sameLive_padMore hp hq).1 hlive
  refine ⟨⟨rfl, rfl, rfl, by simp [hL], by simp, by simp [he]⟩, ?_, by simp [hpend], by simp [hresp]⟩
  refine (State.sameLive_wload rfl).2 ⟨by simp [hH], Vector.ext fun i hi => ?_, by simp⟩
  rw [padDone_B, padDone_B, padMore_B_getElem, padMore_B_getElem, hL]

/-- The word written at `t` joins the live words below it. -/
theorem set_index64_congr {v w : Vector Word 64} {t : BitVec 6} (h : ∀ i : Fin 64, i.val < t.toNat → v[i] = w[i])
    (x : Word) (i : Fin 64) (hi : i.val < t.toNat + 1) : (v.set (index64 t) x)[i] = (w.set (index64 t) x)[i] := by
  rw [Fin.getElem_fin, Fin.getElem_fin, Vector.getElem_set, Vector.getElem_set, index64_val]
  split_ifs with hit
  · rfl
  · exact h i (by omega)

theorem State.agrees.afterWld {s t : State} (h : s.agrees t) (hp : s.PH = .wload) (hT : s.T.toNat < 16) :
    (afterWld s s.T hT).agrees (afterWld t s.T hT) := by
  obtain ⟨⟨-, -, hN, hL, hq, he⟩, hlive, hpend, hresp⟩ := h
  obtain ⟨hH, hB, hW⟩ := (State.sameLive_wload hp).1 hlive
  have hW' (i : Fin 64) (hi : i.val < s.T.toNat + 1) :
      (Machine.afterWld s s.T hT).W[i] = (Machine.afterWld t s.T hT).W[i] := by
    rw [afterWld_W, afterWld_W, hB]
    exact set_index64_congr hW _ i hi
  refine ⟨⟨rfl, rfl, hN, hL, hq, he⟩, ?_, hpend, hresp⟩
  by_cases h15 : s.T = 15#6
  · rw [State.sameLive_wexp (by simp [h15])]
    refine ⟨hH, fun i hi => hW' i ?_⟩
    simpa [h15] using hi
  · rw [State.sameLive_wload (by simp [h15])]
    refine ⟨hH, hB, fun i hi => hW' i ?_⟩
    simp [h15] at hi
    omega

/-- WEX reads words below its own alone (R122). -/
theorem wexWord_congr {s t : State} {k : BitVec 6} (hk : 16 ≤ k.toNat)
    (h : ∀ i : Fin 64, i.val < k.toNat → s.W[i] = t.W[i]) : wexWord s k hk = wexWord t k hk := by
  have hlt := k.isLt
  have hread (j : Nat) (hj : 0 < j) : s.W[k.toNat - j] = t.W[k.toNat - j] := h ⟨k.toNat - j, by omega⟩ (by grind)
  simp only [wexWord, hread 16 (by decide), hread 15 (by decide), hread 7 (by decide), hread 2 (by decide)]

theorem State.agrees.afterWex {s t : State} (h : s.agrees t) (hp : s.PH = .wexp) (hT : 16 ≤ s.T.toNat) :
    (afterWex s s.T hT).agrees (afterWex t s.T hT) := by
  obtain ⟨⟨-, -, hN, hL, hq, he⟩, hlive, hpend, hresp⟩ := h
  obtain ⟨hH, hW⟩ := (State.sameLive_wexp hp).1 hlive
  have hW' (i : Fin 64) (hi : i.val < s.T.toNat + 1) :
      (Machine.afterWex s s.T hT).W[i] = (Machine.afterWex t s.T hT).W[i] := by
    rw [afterWex_W, afterWex_W, wexWord_congr hT hW]
    exact set_index64_congr hW _ i hi
  refine ⟨⟨rfl, rfl, hN, hL, hq, he⟩, ?_, hpend, hresp⟩
  by_cases h63 : s.T = 63#6
  · rw [State.sameLive_rload (by simp [h63])]
    refine ⟨hH, Vector.ext fun i hi => hW' ⟨i, hi⟩ ?_⟩
    simpa [h63] using hi
  · rw [State.sameLive_wexp (by simp [h63])]
    refine ⟨hH, fun i hi => hW' i ?_⟩
    simp [h63] at hi
    omega

theorem State.agrees.afterRld {s t : State} (h : s.agrees t) (hp : s.PH = .rload) :
    (afterRld s).agrees (afterRld t) := by
  obtain ⟨⟨-, -, hN, hL, hq, he⟩, hlive, hpend, hresp⟩ := h
  obtain ⟨hH, hW⟩ := (State.sameLive_rload hp).1 hlive
  exact ⟨⟨rfl, rfl, hN, hL, hq, he⟩, (State.sameLive_round rfl).2 ⟨hH, hW, hH⟩, hpend, hresp⟩

theorem State.agrees.afterRnd {s t : State} (h : s.agrees t) (hp : s.PH = .round) :
    (afterRnd s s.T).agrees (afterRnd t s.T) := by
  obtain ⟨⟨-, -, hN, hL, hq, he⟩, hlive, hpend, hresp⟩ := h
  obtain ⟨hH, hW, hr⟩ := (State.sameLive_round hp).1 hlive
  have hr' : (Machine.afterRnd s s.T).r = (Machine.afterRnd t s.T).r := by rw [afterRnd_r, afterRnd_r, hr, hW]
  refine ⟨⟨rfl, rfl, hN, hL, hq, he⟩, ?_, hpend, hresp⟩
  by_cases h63 : s.T = 63#6
  · exact (State.sameLive_feed (by simp [h63])).2 ⟨hH, hr'⟩
  · exact (State.sameLive_round (by simp [h63])).2 ⟨hH, hW, hr'⟩

/-- After FEED no byte of `B` is live: `N` is 0 while a block is processed (R15, R134). -/
theorem State.agrees.afterFeed {s t : State} (h : s.agrees t) (hc : s.consistent = true) (hp : s.PH = .feed) :
    (afterFeed s).agrees (afterFeed t) := by
  obtain ⟨⟨-, -, hN, hL, hq, he⟩, hlive, hpend, hresp⟩ := h
  obtain ⟨hH, hr⟩ := (State.sameLive_feed hp).1 hlive
  obtain ⟨-, hfirst, -, -, hzero, -⟩ := (State.consistent_block (by simp [hp])).1 hc
  have hH' : (Machine.afterFeed s).H = (Machine.afterFeed t).H := by rw [afterFeed_H, afterFeed_H, hH, hr]
  refine ⟨⟨by simp [hq], rfl, hN, hL, by simp [hq], he⟩, ?_, hpend, hresp⟩
  cases hs : s.PADST with
  | none => exact (State.sameLive_absorb (by simp [hs, feedGoesTo])).2 ⟨hH', by simp [hzero]⟩
  | first => exact absurd hs hfirst
  | more => exact (State.sameLive_padMore (by simp [hs, feedGoesTo]) (by simp [hs])).2 hH'
  | last => exact (State.sameLive_done (by simp [hs, feedGoesTo])).2 hH'

theorem sequencerStep_agrees {s t s' : State} (hc : s.consistent = true) (h : s.agrees t)
    (hs : sequencerStep s = .next s') : ∃ t', sequencerStep t = .next t' ∧ s'.agrees t' := by
  obtain ⟨⟨hPH, hT, -, -, hq, -⟩, -⟩ := id h
  rw [sequencerStep_eq t, ← hPH, ← hT]
  rcases sequencerStep_next hs with ⟨hr, rfl⟩ | ⟨hp, h0, hpad, rfl⟩ | ⟨hp, h0, hpad, rfl⟩ | ⟨hp, hlt, rfl⟩ |
    ⟨hp, hle, rfl⟩ | ⟨hp, h0, rfl⟩ | ⟨hp, rfl⟩ | ⟨hp, h0, hpad, rfl⟩
  · refine ⟨t, ?_, h⟩
    rcases s'.ready_iff.1 hr with hp | hp | hp | hp <;> rw [hp]
  · rw [hp, h0]
    exact ⟨_, execPadb_first (hq ▸ hpad), h.padFirst hp hpad⟩
  · rw [hp, h0]
    exact ⟨_, execPadb_more (hq ▸ hpad), h.padMore hp hpad⟩
  · rw [hp]
    exact ⟨_, execWld_eq hlt, h.afterWld hp hlt⟩
  · rw [hp]
    exact ⟨_, execWex_eq hle, h.afterWex hp hle⟩
  · rw [hp, h0]
    exact ⟨_, execRld_eq t, h.afterRld hp⟩
  · rw [hp]
    exact ⟨_, execRnd_eq s.T t, h.afterRnd hp⟩
  · rw [hp, h0]
    exact ⟨_, execFeed_eq (hq ▸ hpad), h.afterFeed hc hp⟩

/-! ### The step -/

theorem transfer_agrees {s t s' : State} (hr : s.ready = true) (h : s.agrees t) (c : BitVec 16)
    (hs : transfer c s = .next s') : ∃ t', transfer c t = .next t' ∧ s'.agrees t' := by
  obtain ⟨⟨hPH, -⟩, -⟩ := id h
  by_cases hf : s.PH = .fault
  · rw [transfer_fault hf] at hs
    cases hs
    refine ⟨_, transfer_fault (hPH ▸ hf) c, ?_⟩
    split_ifs
    · exact h.controlReset.respondStatus
    · exact h.respondStatus
  · rw [transfer_ready hr hf] at hs
    cases hs
    exact ⟨_, transfer_ready (h.ready_eq ▸ hr) (hPH ▸ hf) c, h.commandEffect _⟩

theorem step_agrees {s t s' : State} (hc : s.consistent = true) (h : s.agrees t) (hs : step s = .next s') :
    ∃ t', step t = .next t' ∧ s'.agrees t' := by
  obtain ⟨-, -, hpend, -⟩ := id h
  cases hp : s.pending with
  | nil =>
    rw [step_nil hp] at hs
    rw [step_nil (hpend.trans hp)]
    exact sequencerStep_agrees hc h hs
  | cons e rest =>
    have hrest := h.setPending rest
    cases e with
    | idle =>
      rw [step_idle hp] at hs
      rw [step_idle (hpend.trans hp)]
      exact sequencerStep_agrees (s := { s with pending := rest }) hc hrest hs
    | reset =>
      rw [step_reset hp] at hs
      cases hs
      exact ⟨_, step_reset (hpend.trans hp), hrest.hardwareReset⟩
    | command c =>
      rw [step_command hp] at hs
      rw [step_command (hpend.trans hp), ← h.ready_eq]
      by_cases hr : s.ready = true
      · rw [if_pos hr] at hs ⊢
        exact transfer_agrees (s := { s with pending := rest }) hr hrest c hs
      · rw [if_neg hr] at hs ⊢
        exact sequencerStep_agrees hc h hs

/-- Settles O35: `step_agrees`, by the host's next event; each command and each micro-operation reads live data alone. -/
theorem staleDataIsNeverRead : Obligations.StaleDataIsNeverRead := by
  intro s t s' hc hctl hlive hpend hresp hs
  exact step_agrees hc ⟨hctl, hlive, hpend, hresp⟩ hs

end Sys2Proof.Machine
end

section
/-! The constant tables and their definition (10_state.md R23). -/

namespace Sys2Proof.Config

/-- The 64 primes below 312 in order. -/
def firstPrimes : List Nat :=
  [2, 3, 5, 7, 11, 13, 17, 19, 23, 29, 31, 37, 41, 43, 47, 53, 59, 61, 67, 71, 73, 79, 83, 89, 97, 101, 103, 107, 109,
    113, 127, 131, 137, 139, 149, 151, 157, 163, 167, 173, 179, 181, 191, 193, 197, 199, 211, 223, 227, 229, 233, 239,
    241, 251, 257, 263, 269, 271, 277, 281, 283, 293, 307, 311]

/-- Trial division: below `18 ^ 2` a composite number has a prime factor below 18. -/
theorem prime_iff_trialDivision {p : Nat} (h : p < 18 ^ 2) :
    Nat.Prime p ↔ 2 ≤ p ∧ ∀ q ∈ [2, 3, 5, 7, 11, 13, 17], q ∣ p → q = p := by
  constructor
  · intro hp
    refine ⟨hp.two_le, fun q hq hdvd => ?_⟩
    have hq1 : q ≠ 1 := by rintro rfl; revert hq; decide
    exact (hp.eq_one_or_self_of_dvd q hdvd).resolve_left hq1
  · rintro ⟨h2, htrial⟩
    by_contra hp
    have hsq : p.minFac ^ 2 ≤ p := Nat.minFac_sq_le_self (by omega) hp
    have hlt : p.minFac < 18 := lt_of_pow_lt_pow_left₀ 2 (by decide) (hsq.trans_lt h)
    have hprime := Nat.minFac_prime (n := p) (by omega)
    have hmem : ∀ q < 18, Nat.Prime q → q ∈ [2, 3, 5, 7, 11, 13, 17] := by decide
    exact hp ((htrial _ (hmem _ hlt hprime) p.minFac_dvd) ▸ hprime)

set_option maxRecDepth 4000 in
theorem mem_firstPrimes_iff (p : Nat) : p ∈ firstPrimes ↔ Nat.Prime p ∧ p < 312 := by
  have hbound : ∀ q ∈ firstPrimes, q < 312 := by decide
  have htrial : ∀ q < 312, q ∈ firstPrimes ↔ 2 ≤ q ∧ ∀ d ∈ [2, 3, 5, 7, 11, 13, 17], d ∣ q → d = q := by decide
  by_cases h : p < 312
  · rw [htrial p h, ← prime_iff_trialDivision (by omega), and_iff_left h]
  · exact iff_of_false (fun hp => h (hbound p hp)) (fun hp => h hp.2)

/-- `w` is the first 32 bits of the fraction of the `k`-th root of `p`: put behind the whole part of the root, it is
the root of `p * 2 ^ (32 * k)` without its fraction. -/
def IsRootFraction (k p : Nat) (w : Word) : Prop :=
  (Nat.nthRoot k p * 2 ^ 32 + w.toNat) ^ k ≤ p * 2 ^ (32 * k) ∧
    p * 2 ^ (32 * k) < (Nat.nthRoot k p * 2 ^ 32 + w.toNat + 1) ^ k

theorem IsRootFraction.exists_root {k p : Nat} {w : Word} (h : IsRootFraction k p w) :
    ∃ c : Nat, c ^ k ≤ p * 2 ^ (32 * k) ∧ p * 2 ^ (32 * k) < (c + 1) ^ k ∧ w.toNat = c % 2 ^ 32 := by
  obtain ⟨hle, hlt⟩ := h
  have := w.isLt
  exact ⟨Nat.nthRoot k p * 2 ^ 32 + w.toNat, hle, hlt, by omega⟩

theorem IV_isRootFraction : ∀ i : Fin 8, IsRootFraction 2 (firstPrimes.getD i.val 0) (IV i) := by
  unfold IsRootFraction
  decide

theorem K_isRootFraction : ∀ t : Fin 64, IsRootFraction 3 (firstPrimes.getD t.val 0) (K t) := by
  unfold IsRootFraction
  decide

/-- Settles O36: each constant, put behind the whole part of its prime's root, is that root cut after 32 bits of
fraction. -/
theorem constantsAreFractionsOfPrimeRoots : Obligations.ConstantsAreFractionsOfPrimeRoots :=
  ⟨firstPrimes, by decide, mem_firstPrimes_iff, by decide, fun i => (IV_isRootFraction i).exists_root,
    fun t => (K_isRootFraction t).exists_root⟩

end Sys2Proof.Config
end

section
/-! The block buffer primitives by number (20_memory.md R41, R42). -/

namespace Sys2Proof.Machine

/-- The next byte goes below the bytes read so far. -/
theorem memRead_succ_toNat (b : Vector Byte 64) (a n : Nat) (h : a + (n + 1) ≤ 64) :
    (memRead b a (n + 1) h).toNat = 256 * (memRead b a n (by omega)).toNat + b[a + n].toNat := by
  have hbyte := b[a + n].isLt
  rw [memRead, BitVec.toNat_append, ← Nat.shiftLeft_add_eq_or_of_lt hbyte, Nat.shiftLeft_eq]
  omega

/-- MemRead is big-endian: byte `i` of the buffer is the `i`-th from the top. -/
theorem memRead_byte (b : Vector Byte 64) (a n : Nat) (h : a + n ≤ 64) (i : Nat) (hi : i < n) :
    (memRead b a n h).toNat / 256 ^ (n - 1 - i) % 256 = b[a + i].toNat := by
  induction n with
  | zero => omega
  | succ n ih =>
    have hbyte := b[a + n].isLt
    rw [memRead_succ_toNat]
    rcases Nat.lt_succ_iff_lt_or_eq.1 hi with hlt | rfl
    · rw [show n + 1 - 1 - i = n - 1 - i + 1 by omega, pow_succ', ← Nat.div_div_eq_div_mul,
        Nat.mul_add_div (by decide), Nat.div_eq_of_lt hbyte]
      exact ih (by omega) hlt
    · rw [show i + 1 - 1 - i = 0 by omega, pow_zero, Nat.div_one]
      omega

/-- MemWrite is big-endian too: the value's `i`-th byte from the top goes to byte `i`. -/
theorem memWrite_byte (b : Vector Byte 64) (a n : Nat) (v : BitVec (8 * n)) (k : Nat) (hk : k < 64)
    (hin : a ≤ k ∧ k < a + n) : (memWrite b a n v)[k].toNat = v.toNat / 256 ^ (n - 1 - (k - a)) % 256 := by
  rw [memWrite_getElem, if_pos hin, BitVec.extractLsb'_toNat, Nat.shiftRight_eq_div_pow, Nat.pow_mul]

theorem memWrite_outside (b : Vector Byte 64) (a n : Nat) (v : BitVec (8 * n)) (k : Nat) (hk : k < 64)
    (hout : k < a ∨ a + n ≤ k) : (memWrite b a n v)[k] = b[k] := by
  rw [memWrite_getElem, if_neg (by omega)]

/-- A number of `n` bytes is known by its bytes. -/
theorem eq_of_bytes_eq {n x y : Nat} (hx : x < 256 ^ n) (hy : y < 256 ^ n)
    (h : ∀ i < n, x / 256 ^ i % 256 = y / 256 ^ i % 256) : x = y := by
  induction n generalizing x y with
  | zero => omega
  | succ n ih =>
    have hlow : x % 256 = y % 256 := by simpa using h 0 (by omega)
    have hhigh : x / 256 = y / 256 := by
      refine ih (by omega) (by omega) fun i hi => ?_
      rw [Nat.div_div_eq_div_mul, Nat.div_div_eq_div_mul, ← pow_succ']
      exact h (i + 1) (by omega)
    omega

theorem memRead_memWrite (b : Vector Byte 64) (a n : Nat) (v : BitVec (8 * n)) (h : a + n ≤ 64) :
    memRead (memWrite b a n v) a n h = v := by
  have hbound (x : BitVec (8 * n)) : x.toNat < 256 ^ n := by
    rw [show 256 = 2 ^ 8 from rfl, ← Nat.pow_mul]
    exact x.isLt
  refine BitVec.eq_of_toNat_eq (eq_of_bytes_eq (hbound _) (hbound v) fun i hi => ?_)
  have hread := memRead_byte (memWrite b a n v) a n h (n - 1 - i) (by omega)
  rw [memWrite_byte b a n v _ _ (by omega), Nat.add_sub_cancel_left, show n - 1 - (n - 1 - i) = i by omega] at hread
  exact hread

/-- Settles O37: MemRead and MemWrite place the same byte at the same index, so MemRead finds the value written. -/
theorem memReadReturnsWhatMemWriteWrote : Obligations.MemReadReturnsWhatMemWriteWrote := by
  intro b a n v h
  exact ⟨memRead_memWrite b a n v h, memRead_byte b a n h, fun k hlo hhi => memWrite_byte b a n v k k.isLt ⟨hlo, hhi⟩,
    fun k hout => memWrite_outside b a n v k k.isLt hout⟩

end Sys2Proof.Machine
end

section
/-! Two runs with the same control state, whatever their data: no data value steers a step (20_memory.md R48). -/

namespace Sys2Proof.Machine

/-- What `Obligations.DataNeverSteersControl` compares two states by: the control state, and the host's events but for
the bytes pushed. -/
def State.steersAlike (s t : State) : Prop :=
  s.sameControl t ∧ List.Forall₂ HostEvent.sameShape s.pending t.pending

/-- Two steps end alike: in states that steer alike, or for the same reason. -/
def endAlike : Result → Result → Prop
  | .next s, .next t => s.steersAlike t
  | .fault f, .fault g => f = g
  | .refused f, .refused g => f = g
  | _, _ => False

theorem endAlike_next {s : State} {y : Result} (h : endAlike (.next s) y) : ∃ t, y = .next t ∧ s.steersAlike t := by
  cases y with
  | next t => exact ⟨t, rfl, h⟩
  | fault f | refused f => exact h.elim

theorem endAlike_fault {f : Fault} {y : Result} (h : endAlike (.fault f) y) : y = .fault f := by
  cases y with
  | fault g => exact congrArg _ (Eq.symm h)
  | next t | refused g => exact h.elim

/-! ### Parts of a step that keep the likeness -/

theorem State.steersAlike.ready_eq {s t : State} (h : s.steersAlike t) : s.ready = t.ready := by
  obtain ⟨⟨hPH, -⟩, -⟩ := h
  rw [State.ready, State.ready, hPH]

theorem State.steersAlike.setPending {s t : State} (h : s.steersAlike t) {p q : List HostEvent}
    (hpq : List.Forall₂ HostEvent.sameShape p q) : ({ s with pending := p } : State).steersAlike { t with pending := q } :=
  ⟨h.1, hpq⟩

/-- A response may tell the data: nothing reads it. -/
theorem State.steersAlike.respond {s t : State} (h : s.steersAlike t) (v w : Word) :
    (s.respond v).steersAlike (t.respond w) := h

theorem State.steersAlike.respondStatus {s t : State} (h : s.steersAlike t) :
    s.respondStatus.steersAlike t.respondStatus := h.respond _ _

theorem State.steersAlike.raiseFault {s t : State} (h : s.steersAlike t) (e : ErrorCode) :
    (s.raiseFault e).steersAlike (t.raiseFault e) := by
  obtain ⟨⟨-, hT, hN, hL, hq, -⟩, hpend⟩ := h
  exact ⟨⟨rfl, hT, hN, hL, hq, rfl⟩, hpend⟩

theorem State.steersAlike.controlReset {s t : State} (h : s.steersAlike t) :
    s.controlReset.steersAlike t.controlReset := ⟨⟨rfl, rfl, rfl, rfl, rfl, rfl⟩, h.2⟩

theorem State.steersAlike.hardwareReset {s t : State} (h : s.steersAlike t) :
    s.hardwareReset.steersAlike t.hardwareReset := ⟨⟨rfl, rfl, rfl, rfl, rfl, rfl⟩, h.2⟩

/-- Where the next byte goes is told by `N` alone, whatever the byte (R107). -/
theorem State.steersAlike.appendByte {s t : State} (h : s.steersAlike t) (x y : Byte) :
    (appendByte s x).steersAlike (appendByte t y) := by
  obtain ⟨⟨hPH, hT, hN, hL, hq, he⟩, hpend⟩ := h
  exact ⟨⟨by simp [hPH, hN], by simp [hT, hN], by simp [hN], by simp [hL], by simp [hq], by simp [he]⟩,
    by simpa using hpend⟩

/-! ### A command -/

theorem State.steersAlike.pushb {s t : State} (h : s.steersAlike t) (x y : Byte) :
    (commandEffect s (.ok (.pushb x))).steersAlike (commandEffect t (.ok (.pushb y))) := by
  obtain ⟨⟨hPH, -, -, hL, -, -⟩, -⟩ := id h
  simp only [Machine.commandEffect, ← hPH, ← hL]
  split_ifs
  · exact h.raiseFault .eseq
  · exact h.raiseFault .elen
  · exact (h.appendByte x y).respondStatus

theorem State.steersAlike.commandEffect {s t : State} (h : s.steersAlike t) (d : Except Reject Instr) :
    (commandEffect s d).steersAlike (commandEffect t d) := by
  obtain ⟨⟨hPH, -, hN, hL, -, he⟩, hpend⟩ := id h
  cases d with
  | error e => exact h.raiseFault .eill
  | ok i =>
    cases i with
    | init => exact ⟨⟨rfl, rfl, rfl, rfl, rfl, he⟩, hpend⟩
    | pushb b => exact h.pushb b b
    | final =>
      simp only [Machine.commandEffect, ← hPH]
      split_ifs
      · exact h.raiseFault .eseq
      · exact ⟨⟨rfl, rfl, hN, hL, rfl, he⟩, hpend⟩
    | rdw _ | rdb _ =>
      simp only [Machine.commandEffect, ← hPH]
      split_ifs
      · exact h.raiseFault .eseq
      · exact h.respond _ _
    | stat => exact h.respondStatus
    | srst => exact h.controlReset.respondStatus
    | padb _ | wld _ | wex _ | rld _ | rnd _ | feed _ => exact h

/-- The same word, or two PUSHBs, in FAULT as elsewhere. -/
theorem transfer_endAlike {s t : State} (h : s.steersAlike t) (hr : s.ready = true) {c d : BitVec 16}
    (hcd : c = d ∨ ∃ x y, decodeCommand c = .ok (.pushb x) ∧ decodeCommand d = .ok (.pushb y)) :
    endAlike (transfer c s) (transfer d t) := by
  obtain ⟨⟨hPH, -⟩, -⟩ := id h
  by_cases hf : s.PH = .fault
  · have hsrst : c = 0xF000 ↔ d = 0xF000 := by
      rcases hcd with rfl | ⟨x, y, hx, hy⟩
      · rfl
      · rw [← decodeCommand_srst_iff, ← decodeCommand_srst_iff, hx, hy]
        simp
    rw [transfer_fault hf, transfer_fault (hPH ▸ hf)]
    simp only [hsrst]
    split_ifs
    · exact h.controlReset.respondStatus
    · exact h.respondStatus
  · rw [transfer_ready hr hf, transfer_ready (h.ready_eq ▸ hr) (hPH ▸ hf)]
    rcases hcd with rfl | ⟨x, y, hx, hy⟩
    · exact h.commandEffect _
    · rw [hx, hy]
      exact h.pushb x y

/-! ### A micro-operation -/

theorem execPadb_endAlike {s t : State} (h : s.steersAlike t) (k : BitVec 6) :
    endAlike (execPadb k s) (execPadb k t) := by
  obtain ⟨⟨-, -, hN, hL, hq, he⟩, hpend⟩ := h
  by_cases h0 : k = 0
  · subst h0
    cases hp : s.PADST with
    | first =>
      rw [execPadb_first hp, execPadb_first (hq ▸ hp)]
      exact ⟨⟨rfl, rfl, rfl, by simp [hL], by simp [hN], by simp [he]⟩, by simpa using hpend⟩
    | more =>
      rw [execPadb_more hp, execPadb_more (hq ▸ hp)]
      exact ⟨⟨rfl, rfl, rfl, by simp [hL], by simp, by simp [he]⟩, by simpa using hpend⟩
    | none | last => simp [execPadb, hp, ← hq, endAlike]
  · rw [execPadb, execPadb, if_pos h0, if_pos h0]
    exact rfl

theorem execWld_endAlike {s t : State} (h : s.steersAlike t) (k : BitVec 6) :
    endAlike (execWld k s) (execWld k t) := by
  obtain ⟨⟨-, -, hN, hL, hq, he⟩, hpend⟩ := h
  by_cases hk : k.toNat < 16
  · rw [execWld_eq hk, execWld_eq hk]
    exact ⟨⟨rfl, rfl, hN, hL, hq, he⟩, hpend⟩
  · rw [execWld, execWld, dif_neg hk, dif_neg hk]
    exact rfl

theorem execWex_endAlike {s t : State} (h : s.steersAlike t) (k : BitVec 6) :
    endAlike (execWex k s) (execWex k t) := by
  obtain ⟨⟨-, -, hN, hL, hq, he⟩, hpend⟩ := h
  by_cases hk : 16 ≤ k.toNat
  · rw [execWex_eq hk, execWex_eq hk]
    exact ⟨⟨rfl, rfl, hN, hL, hq, he⟩, hpend⟩
  · rw [execWex, execWex, dif_neg hk, dif_neg hk]
    exact rfl

theorem execRld_endAlike {s t : State} (h : s.steersAlike t) (k : BitVec 6) :
    endAlike (execRld k s) (execRld k t) := by
  obtain ⟨⟨-, -, hN, hL, hq, he⟩, hpend⟩ := h
  by_cases h0 : k = 0
  · rw [h0, execRld_eq, execRld_eq]
    exact ⟨⟨rfl, rfl, hN, hL, hq, he⟩, hpend⟩
  · rw [execRld, execRld, if_pos h0, if_pos h0]
    exact rfl

theorem execRnd_endAlike {s t : State} (h : s.steersAlike t) (k : BitVec 6) :
    endAlike (execRnd k s) (execRnd k t) := by
  obtain ⟨⟨-, -, hN, hL, hq, he⟩, hpend⟩ := h
  rw [execRnd_eq, execRnd_eq]
  exact ⟨⟨rfl, rfl, hN, hL, hq, he⟩, hpend⟩

/-- FEED goes on by `PADST` alone (R134). -/
theorem execFeed_endAlike {s t : State} (h : s.steersAlike t) (k : BitVec 6) :
    endAlike (execFeed k s) (execFeed k t) := by
  obtain ⟨⟨-, -, hN, hL, hq, he⟩, hpend⟩ := h
  by_cases h0 : k = 0
  · subst h0
    by_cases hp : s.PADST = .first
    · simp [execFeed, hp, ← hq, endAlike]
    · rw [execFeed_eq hp, execFeed_eq (hq ▸ hp)]
      exact ⟨⟨by simp [hq], rfl, hN, hL, by simp [hq], he⟩, hpend⟩
  · rw [execFeed, execFeed, if_pos h0, if_pos h0]
    exact rfl

/-- PH selects the micro-operation and T is its operand: both are control state (R156). -/
theorem sequencerStep_endAlike {s t : State} (h : s.steersAlike t) : endAlike (sequencerStep s) (sequencerStep t) := by
  obtain ⟨⟨hPH, hT, -⟩, -⟩ := id h
  rw [sequencerStep_eq, sequencerStep_eq, ← hPH, ← hT]
  cases s.PH with
  | pad => exact execPadb_endAlike h s.T
  | wload => exact execWld_endAlike h s.T
  | wexp => exact execWex_endAlike h s.T
  | rload => exact execRld_endAlike h s.T
  | round => exact execRnd_endAlike h s.T
  | feed => exact execFeed_endAlike h s.T
  | idle | absorb | done | fault => exact h

/-! ### The step -/

theorem HostEvent.sameShape_cases : ∀ {e f : HostEvent}, e.sameShape f →
    (e = .idle ∧ f = .idle) ∨ (e = .reset ∧ f = .reset) ∨
    ∃ c d, e = .command c ∧ f = .command d ∧
      (c = d ∨ ∃ x y, decodeCommand c = .ok (.pushb x) ∧ decodeCommand d = .ok (.pushb y))
  | .idle, .idle, _ => .inl ⟨rfl, rfl⟩
  | .reset, .reset, _ => .inr (.inl ⟨rfl, rfl⟩)
  | .command c, .command d, h => .inr (.inr ⟨c, d, rfl, rfl, h⟩)

theorem step_endAlike {s t : State} (h : s.steersAlike t) : endAlike (step s) (step t) := by
  have hpend := h.2
  generalize hs : s.pending = p, ht : t.pending = q at hpend
  cases hpend with
  | nil =>
    rw [step_nil hs, step_nil ht]
    exact sequencerStep_endAlike h
  | cons hhead hrest =>
    have hafter := h.setPending hrest
    rcases HostEvent.sameShape_cases hhead with ⟨rfl, rfl⟩ | ⟨rfl, rfl⟩ | ⟨c, d, rfl, rfl, hcd⟩
    · rw [step_idle hs, step_idle ht]
      exact sequencerStep_endAlike hafter
    · rw [step_reset hs, step_reset ht]
      exact hafter.hardwareReset
    · rw [step_command hs, step_command ht, ← h.ready_eq]
      split_ifs with hr
      · exact transfer_endAlike hafter hr hcd
      · exact sequencerStep_endAlike h

/-- Settles O38: `step_endAlike`, by the host's next event; every branch a step takes is on control state or on the
command's kind. -/
theorem dataNeverSteersControl : Obligations.DataNeverSteersControl := by
  intro s t hctl hpend
  have h := step_endAlike ⟨hctl, hpend⟩
  refine ⟨fun s' hs => ?_, fun f hs => ?_⟩
  · rw [hs] at h
    exact endAlike_next h
  · rw [hs] at h
    exact endAlike_fault h

end Sys2Proof.Machine
end

section
/-! The two decoders and the encoder: decoding gives back what was encoded, and reads nothing else (30_encoding.md R60 to
R63, R66). -/

namespace Sys2Proof

open Sys2Proof.Machine

/-- A word of two fields, read field by field. -/
theorem eq_append_iff {m n : Nat} (x : BitVec (m + n)) (u : BitVec m) (y : BitVec n) :
    x = u ++ y ↔ x.extractLsb' n m = u ∧ x.extractLsb' 0 n = y := by
  constructor
  · rintro rfl
    exact ⟨extractLsb'_append_upper u y, extractLsb'_append_lower u y⟩
  · rintro ⟨rfl, rfl⟩
    exact BitVec.extractLsb'_append_extractLsb'.symm

/-! ### The argument of a command (R61) -/

/-- A check answers its value, and only when it passes. -/
theorem check_eq_ok_iff {ε α : Type} {p : Prop} [Decidable p] {a b : α} {r : ε} :
    (if p then Except.ok a else .error r) = .ok b ↔ p ∧ a = b := by
  by_cases h : p <;> simp [h]

theorem decodeZ_eq_ok_iff {arg : BitVec 8} {i j : Instr} : decodeZ arg i = .ok j ↔ arg = 0 ∧ i = j :=
  check_eq_ok_iff

theorem decodeX3_eq_ok_iff {arg : BitVec 8} {mk : BitVec 3 → Instr} {j : Instr} :
    decodeX3 arg mk = .ok j ↔ ∃ k, arg = 0#5 ++ k ∧ mk k = j := by
  have hfields (k : BitVec 3) : arg = 0#5 ++ k ↔ arg.extractLsb' 3 5 = 0 ∧ arg.extractLsb' 0 3 = k :=
    eq_append_iff (m := 5) (n := 3) arg 0 k
  simp only [decodeX3, check_eq_ok_iff, hfields, and_assoc, exists_and_left, exists_eq_left']

theorem decodeX5_eq_ok_iff {arg : BitVec 8} {mk : BitVec 5 → Instr} {j : Instr} :
    decodeX5 arg mk = .ok j ↔ ∃ k, arg = 0#3 ++ k ∧ mk k = j := by
  have hfields (k : BitVec 5) : arg = 0#3 ++ k ↔ arg.extractLsb' 5 3 = 0 ∧ arg.extractLsb' 0 5 = k :=
    eq_append_iff (m := 3) (n := 5) arg 0 k
  simp only [decodeX5, check_eq_ok_iff, hfields, and_assoc, exists_and_left, exists_eq_left']

/-! ### Command words (R63) -/

/-- A command word with a zero `mbz` field decodes by its operation and its argument. -/
theorem decodeCommand_fields (op : BitVec 4) (arg : BitVec 8) :
    decodeCommand (op ++ 0#4 ++ arg) = decodeOperation op.toNat arg := by
  obtain ⟨hop, hmbz, harg⟩ := (commandWord_eq_iff _ op arg).1 rfl
  rw [decodeCommand, hop, hmbz, harg]
  rfl

theorem encode_rdw (k : BitVec 3) : encode (.rdw k) = .command (4#4 ++ 0#4 ++ (0#5 ++ k)) :=
  congrArg CodeWord.command (BitVec.append_assoc (x₁ := 4#4 ++ 0#4) (x₂ := 0#5) (x₃ := k))

theorem encode_rdb (k : BitVec 5) : encode (.rdb k) = .command (5#4 ++ 0#4 ++ (0#3 ++ k)) :=
  congrArg CodeWord.command (BitVec.append_assoc (x₁ := 5#4 ++ 0#4) (x₂ := 0#3) (x₃ := k))

/-- A word with the fields of an instruction's word is the instruction's word. -/
theorem encode_eq_of_fields {i : Instr} {c : BitVec 16} (op : BitVec 4) {arg : BitVec 8}
    (hi : encode i = .command (op ++ 0#4 ++ arg)) (hmbz : c.extractLsb' 8 4 = 0)
    (hop : (c.extractLsb' 12 4).toNat = op.toNat) (harg : c.extractLsb' 0 8 = arg) : encode i = .command c := by
  rw [hi, (commandWord_eq_iff c op arg).2 ⟨BitVec.eq_of_toNat_eq hop, hmbz, harg⟩]

/-- The command decoder reads only words of the encoder. -/
theorem encode_of_decodeCommand {c : BitVec 16} {i : Instr} (h : decodeCommand c = .ok i) : encode i = .command c := by
  unfold decodeCommand at h
  split_ifs at h with hmbz
  unfold decodeOperation at h
  split at h
  case h_1 hop =>
    obtain ⟨harg, rfl⟩ := decodeZ_eq_ok_iff.1 h
    exact encode_eq_of_fields 1 rfl hmbz hop harg
  case h_2 hop =>
    cases h
    exact encode_eq_of_fields 2 rfl hmbz hop rfl
  case h_3 hop =>
    obtain ⟨harg, rfl⟩ := decodeZ_eq_ok_iff.1 h
    exact encode_eq_of_fields 3 rfl hmbz hop harg
  case h_4 hop =>
    obtain ⟨k, harg, rfl⟩ := decodeX3_eq_ok_iff.1 h
    exact encode_eq_of_fields 4 (encode_rdw k) hmbz hop harg
  case h_5 hop =>
    obtain ⟨k, harg, rfl⟩ := decodeX5_eq_ok_iff.1 h
    exact encode_eq_of_fields 5 (encode_rdb k) hmbz hop harg
  case h_6 hop =>
    obtain ⟨harg, rfl⟩ := decodeZ_eq_ok_iff.1 h
    exact encode_eq_of_fields 6 rfl hmbz hop harg
  case h_7 hop =>
    obtain ⟨harg, rfl⟩ := decodeZ_eq_ok_iff.1 h
    exact encode_eq_of_fields 15 rfl hmbz hop harg
  case h_8 => cases h

/-! ### Selection words (R66) -/

/-- The selection decoder reads only words of the encoder. -/
theorem encode_of_decodeMicroOp {s : BitVec 10} {i : Instr} (h : decodeMicroOp s = .ok i) : encode i = .select s := by
  have hs (p : BitVec 4) (hp : (s.extractLsb' 6 4).toNat = p.toNat) : p ++ s.extractLsb' 0 6 = s :=
    ((eq_append_iff (m := 4) (n := 6) s p _).2 ⟨BitVec.eq_of_toNat_eq hp, rfl⟩).symm
  unfold decodeMicroOp at h
  split at h
  case h_1 hp => cases h; exact congrArg CodeWord.select (hs 2 hp)
  case h_2 hp => cases h; exact congrArg CodeWord.select (hs 3 hp)
  case h_3 hp => cases h; exact congrArg CodeWord.select (hs 4 hp)
  case h_4 hp => cases h; exact congrArg CodeWord.select (hs 5 hp)
  case h_5 hp => cases h; exact congrArg CodeWord.select (hs 6 hp)
  case h_6 hp => cases h; exact congrArg CodeWord.select (hs 7 hp)
  case h_7 => cases h

theorem decode_encode (i : Instr) : decode (encode i) = .ok i := by
  cases i with
  | init | final | stat | srst => rfl
  | pushb d => exact decodeCommand_fields 2 d
  | rdw k =>
    rw [encode_rdw]
    exact (decodeCommand_fields 4 _).trans (decodeX3_eq_ok_iff.2 ⟨k, rfl, rfl⟩)
  | rdb k =>
    rw [encode_rdb]
    exact (decodeCommand_fields 5 _).trans (decodeX5_eq_ok_iff.2 ⟨k, rfl, rfl⟩)
  | padb t | wld t | wex t | rld t | rnd t | feed t =>
    simp only [encode, decode, decodeMicroOp, extractLsb'_append_upper, extractLsb'_append_lower]
    rfl

theorem decode_eq_ok_iff (w : CodeWord) (i : Instr) : decode w = .ok i ↔ encode i = w := by
  refine ⟨fun h => ?_, ?_⟩
  · cases w with
    | command c => exact encode_of_decodeCommand h
    | select s => exact encode_of_decodeMicroOp h
  · rintro rfl
    exact decode_encode i

theorem decodeCommand_eq_ok_iff (c : BitVec 16) (i : Instr) : decodeCommand c = .ok i ↔ encode i = .command c :=
  decode_eq_ok_iff (.command c) i

/-- Settles O2: both directions of `decode_eq_ok_iff`, by the fields of a command word and of a selection word. -/
theorem decodeInvertsEncode : Obligations.DecodeInvertsEncode :=
  ⟨decode_encode, fun w i => (decode_eq_ok_iff w i).1⟩

/-- Settles O1: the listed words are evaluated. -/
theorem specWordsDecodeAsListed : Obligations.SpecWordsDecodeAsListed := by
  unfold Obligations.SpecWordsDecodeAsListed
  decide

end Sys2Proof
end

section
/-! The mask and pattern of an opcode table row say what the decoder says (30_encoding.md R63, R66). -/

namespace Sys2Proof

theorem TableRow.selects_iff (row : TableRow) (width w : Nat) :
    row.selects width w = true ↔ row.width = width ∧ w &&& row.mask = row.pattern := by
  simp [TableRow.selects]

/-- A mask of the upper `m` bits keeps the upper field. -/
theorem and_upperMask {m n : Nat} (x : BitVec (m + n)) :
    x.toNat &&& ((2 ^ m - 1) <<< n) = (x.extractLsb' n m).toNat <<< n := by
  rw [BitVec.extractLsb'_toNat]
  apply Nat.eq_of_testBit_eq
  intro i
  simp only [Nat.testBit_and, Nat.testBit_shiftLeft, Nat.testBit_two_pow_sub_one, Nat.testBit_mod_two_pow,
    Nat.testBit_shiftRight]
  by_cases h : n ≤ i
  · simp [h, Bool.and_comm]
  · simp [h]

/-- A mask of the upper bits and a pattern select only words whose upper field is the pattern's. -/
theorem exists_append_of_mask {m n : Nat} {x : BitVec (m + n)} (u : BitVec m)
    (h : x.toNat &&& ((2 ^ m - 1) <<< n) = u.toNat <<< n) : ∃ y : BitVec n, u ++ y = x := by
  rw [and_upperMask, Nat.shiftLeft_eq, Nat.shiftLeft_eq] at h
  have hu : x.extractLsb' n m = u := BitVec.eq_of_toNat_eq (Nat.eq_of_mul_eq_mul_right (Nat.two_pow_pos n) h)
  exact ⟨_, ((eq_append_iff x u _).2 ⟨hu, rfl⟩).symm⟩

theorem eq_of_fullMask {x : BitVec 16} (u : BitVec 16) (h : x.toNat &&& 0xFFFF = u.toNat) : u = x := by
  rw [Nat.and_two_pow_sub_one_of_lt_two_pow (n := 16) x.isLt] at h
  exact (BitVec.eq_of_toNat_eq h).symm

namespace Laws

/-- The family `TableRow`, for every instruction. -/
theorem TableRow.all (i : Instr) : TableRow.Statement i :=
  match i with
  | .init => TableRow.init
  | .pushb d => TableRow.pushb d
  | .final => TableRow.final
  | .rdw k => TableRow.rdw k
  | .rdb k => TableRow.rdb k
  | .stat => TableRow.stat
  | .srst => TableRow.srst
  | .padb t => TableRow.padb t
  | .wld t => TableRow.wld t
  | .wex t => TableRow.wex t
  | .rld t => TableRow.rld t
  | .rnd t => TableRow.rnd t
  | .feed t => TableRow.feed t

end Laws

/-- A word a row selects is the word of an instruction of that row. -/
theorem exists_instr_of_selects (w : CodeWord) {row : TableRow} (hrow : row ∈ opcodeTable)
    (hs : row.selects (Laws.TableRow.wordOf w).1 (Laws.TableRow.wordOf w).2 = true) :
    ∃ i, encode i = w ∧ i.mnemonic = row.mnemonic := by
  obtain ⟨hw, hm⟩ := (TableRow.selects_iff _ _ _).1 hs
  cases w with
  | command c =>
    fin_cases hrow <;> cases hw
    · exact ⟨.init, congrArg _ (eq_of_fullMask 0x1000 hm), rfl⟩
    · obtain ⟨d, rfl⟩ := exists_append_of_mask (m := 8) (n := 8) (x := c) 0x20 hm
      exact ⟨.pushb d, rfl, rfl⟩
    · exact ⟨.final, congrArg _ (eq_of_fullMask 0x3000 hm), rfl⟩
    · obtain ⟨k, rfl⟩ := exists_append_of_mask (m := 13) (n := 3) (x := c) 0x800 hm
      exact ⟨.rdw k, rfl, rfl⟩
    · obtain ⟨k, rfl⟩ := exists_append_of_mask (m := 11) (n := 5) (x := c) 0x280 hm
      exact ⟨.rdb k, rfl, rfl⟩
    · exact ⟨.stat, congrArg _ (eq_of_fullMask 0x6000 hm), rfl⟩
    · exact ⟨.srst, congrArg _ (eq_of_fullMask 0xF000 hm), rfl⟩
  | select s =>
    have hsel (p : BitVec 4) (h : s.toNat &&& 0x3C0 = p.toNat <<< 6) : ∃ t : BitVec 6, p ++ t = s :=
      exists_append_of_mask (m := 4) (n := 6) (x := s) p h
    fin_cases hrow <;> cases hw
    · obtain ⟨t, rfl⟩ := hsel 2 hm; exact ⟨.padb t, rfl, rfl⟩
    · obtain ⟨t, rfl⟩ := hsel 3 hm; exact ⟨.wld t, rfl, rfl⟩
    · obtain ⟨t, rfl⟩ := hsel 4 hm; exact ⟨.wex t, rfl, rfl⟩
    · obtain ⟨t, rfl⟩ := hsel 5 hm; exact ⟨.rld t, rfl, rfl⟩
    · obtain ⟨t, rfl⟩ := hsel 6 hm; exact ⟨.rnd t, rfl, rfl⟩
    · obtain ⟨t, rfl⟩ := hsel 7 hm; exact ⟨.feed t, rfl, rfl⟩

/-- A row is found by its mnemonic. -/
theorem opcodeTable_mnemonic_injOn :
    ∀ a ∈ opcodeTable, ∀ b ∈ opcodeTable, a.mnemonic = b.mnemonic → a = b := by
  decide

/-- A row selects a word exactly when the word decodes to an instruction of the row's mnemonic. -/
theorem selects_iff_decodes (w : CodeWord) {row : TableRow} (hrow : row ∈ opcodeTable) :
    row.selects (Laws.TableRow.wordOf w).1 (Laws.TableRow.wordOf w).2 = true ↔
      ∃ i, decode w = .ok i ∧ i.mnemonic = row.mnemonic := by
  simp only [decode_eq_ok_iff]
  refine ⟨exists_instr_of_selects w hrow, ?_⟩
  rintro ⟨i, rfl, hi⟩
  obtain ⟨row', hrow', hi', hs⟩ := Laws.TableRow.all i
  rwa [opcodeTable_mnemonic_injOn row hrow row' hrow' (hi.symm.trans hi'.symm)]

/-- Settles O3: `selects_iff_decodes` for each of the two kinds of word. -/
theorem decodeFollowsMaskAndMatch : Obligations.DecodeFollowsMaskAndMatch :=
  ⟨fun c _ => selects_iff_decodes (.command c), fun s _ => selects_iff_decodes (.select s), by decide⟩

end Sys2Proof
end

section
/-! The legal command words, counted (30_encoding.md R63). -/

namespace Sys2Proof

/-- The commands with all their operands (R63): 4 without an operand, 256 PUSHB, 8 RDW and 32 RDB. -/
def commands : List Instr :=
  [.init, .final, .stat, .srst] ++ (List.finRange (2 ^ 8)).map (fun d => Instr.pushb ⟨d⟩) ++
    (List.finRange (2 ^ 3)).map (fun k => Instr.rdw ⟨k⟩) ++ (List.finRange (2 ^ 5)).map (fun k => Instr.rdb ⟨k⟩)

theorem mem_commands_iff (i : Instr) : i ∈ commands ↔ i.isCommand = true := by
  cases i <;> simp [commands, Instr.isCommand]

theorem commands_nodup : commands.Nodup := by
  simp [commands, List.nodup_append, List.nodup_map_iff_inj_on, List.nodup_finRange, or_imp, forall_and]

theorem commandWord?_eq_some_iff (i : Instr) (c : BitVec 16) :
    commandWord? i = some c ↔ decodeCommand c = .ok i := by
  rw [decodeCommand_eq_ok_iff, commandWord?]
  cases encode i <;> simp

/-- Settles O4: the words of the commands, different because the decoder tells them apart. -/
theorem threeHundredCommandWordsAreLegal : Obligations.ThreeHundredCommandWordsAreLegal := by
  refine ⟨commands.filterMap commandWord?, ?_, ?_, fun c => ?_⟩
  · refine commands_nodup.filterMap fun i j c hi hj => ?_
    rw [Option.mem_def, commandWord?_eq_some_iff] at hi hj
    exact Except.ok.inj (hi.symm.trans hj)
  · simp [commands, List.filterMap_map, Function.comp_def, commandWord?, encode]
  · simp only [List.mem_filterMap, mem_commands_iff, commandWord?_eq_some_iff]
    exact ⟨fun ⟨i, _, h⟩ => ⟨i, h⟩, fun ⟨i, h⟩ => ⟨i, Machine.decodeCommand_isCommand h, h⟩⟩

end Sys2Proof
end

section
/-! The transfer of a word to a ready engine: the step it is, the fault an illegal word raises, and the response
(30_encoding.md R64, R69). -/

namespace Sys2Proof.Machine

/-! ### Which words are illegal, by number (R64) -/

/-- A check answers an error exactly when it fails. -/
theorem exists_check_eq_error_iff {ε α : Type} {p : Prop} [Decidable p] {a : α} {r : ε} :
    (∃ e, (if p then Except.ok a else .error r) = .error e) ↔ ¬p := by
  by_cases h : p <;> simp [h]

theorem upperField_eq_zero_iff {m n : Nat} (x : BitVec (m + n)) : x.extractLsb' n m = 0 ↔ x.toNat / 2 ^ n = 0 := by
  have hlt : x.toNat / 2 ^ n < 2 ^ m := Nat.div_lt_of_lt_mul (x.isLt.trans_eq (by rw [Nat.pow_add, Nat.mul_comm]))
  rw [← BitVec.toNat_inj, BitVec.extractLsb'_toNat, Nat.shiftRight_eq_div_pow, Nat.mod_eq_of_lt hlt]
  rfl

theorem decodeZ_error_iff (arg : BitVec 8) (i : Instr) : (∃ e, decodeZ arg i = .error e) ↔ arg.toNat ≠ 0 :=
  exists_check_eq_error_iff.trans (not_congr BitVec.toNat_inj.symm)

theorem decodeX3_error_iff (arg : BitVec 8) (mk : BitVec 3 → Instr) :
    (∃ e, decodeX3 arg mk = .error e) ↔ arg.toNat / 8 ≠ 0 :=
  exists_check_eq_error_iff.trans (not_congr (upperField_eq_zero_iff (m := 5) (n := 3) arg))

theorem decodeX5_error_iff (arg : BitVec 8) (mk : BitVec 5 → Instr) :
    (∃ e, decodeX5 arg mk = .error e) ↔ arg.toNat / 32 ≠ 0 :=
  exists_check_eq_error_iff.trans (not_congr (upperField_eq_zero_iff (m := 3) (n := 5) arg))

/-- The first and the third item of R64, for the operation and the argument of a word. -/
theorem decodeOperation_error_iff {op : Nat} (hop : op < 16) (arg : BitVec 8) :
    (∃ e, decodeOperation op arg = .error e) ↔
      op = 0 ∨ 7 ≤ op ∧ op ≤ 14 ∨ (op = 1 ∨ op = 3 ∨ op = 6 ∨ op = 15) ∧ arg.toNat ≠ 0 ∨
        op = 4 ∧ arg.toNat / 8 ≠ 0 ∨ op = 5 ∧ arg.toNat / 32 ≠ 0 := by
  unfold decodeOperation
  split
  case h_1 | h_3 | h_6 | h_7 => rw [decodeZ_error_iff]; omega
  case h_2 => simp
  case h_4 => rw [decodeX3_error_iff]; omega
  case h_5 => rw [decodeX5_error_iff]; omega
  case h_8 =>
    simp only [imp_false] at *
    simp only [Except.error.injEq, exists_eq', true_iff]
    omega

/-- R64's three items, by the numbers of a command word's fields. -/
theorem decodeCommand_error_iff (c : BitVec 16) :
    (∃ e, decodeCommand c = .error e) ↔
      c.toNat / 4096 = 0 ∨ 7 ≤ c.toNat / 4096 ∧ c.toNat / 4096 ≤ 14 ∨ c.toNat / 256 % 16 ≠ 0 ∨
      (c.toNat / 4096 = 1 ∨ c.toNat / 4096 = 3 ∨ c.toNat / 4096 = 6 ∨ c.toNat / 4096 = 15) ∧ c.toNat % 256 ≠ 0 ∨
      c.toNat / 4096 = 4 ∧ c.toNat % 256 / 8 ≠ 0 ∨ c.toNat / 4096 = 5 ∧ c.toNat % 256 / 32 ≠ 0 := by
  have hlt := c.isLt
  have hop : (c.extractLsb' 12 4).toNat = c.toNat / 4096 := by
    rw [BitVec.extractLsb'_toNat, Nat.shiftRight_eq_div_pow]
    omega
  have hmbz : c.extractLsb' 8 4 = 0 ↔ c.toNat / 256 % 16 = 0 := by
    rw [← BitVec.toNat_inj, BitVec.extractLsb'_toNat, Nat.shiftRight_eq_div_pow]
    rfl
  have harg : (c.extractLsb' 0 8).toNat = c.toNat % 256 := BitVec.extractLsb'_toNat 0 8 c
  rw [decodeCommand]
  split_ifs with h <;> rw [hmbz] at h
  · rw [decodeOperation_error_iff (c.extractLsb' 12 4).isLt, hop, harg]
    simp only [h, ne_eq, not_true_eq_false, false_or]
  · simp [h]

/-! ### The step that transfers a word (R150) -/

theorem step_transfer {s : State} {c : BitVec 16} {rest : List HostEvent} (hr : s.ready = true) (hf : s.PH ≠ .fault)
    (hp : s.pending = .command c :: rest) :
    step s = .next (commandEffect { s with pending := rest } (decodeCommand c)) := by
  rw [step_command hp, if_pos hr, transfer_ready (s := { s with pending := rest }) hr hf]

theorem step_transfer_fault {s : State} {c : BitVec 16} {rest : List HostEvent} (hf : s.PH = .fault)
    (hp : s.pending = .command c :: rest) :
    step s = .next (if c = 0xF000 then { s with pending := rest }.controlReset.respondStatus
      else { s with pending := rest }.respondStatus) := by
  rw [step_command hp, if_pos (s.ready_iff.2 (by simp [hf])), transfer_fault (s := { s with pending := rest }) hf]

theorem raiseFault_entersFault (s : State) (code : ErrorCode) : s.entersFault (s.raiseFault code) code :=
  ⟨rfl, rfl, rfl, rfl, ⟨rfl, rfl, rfl, rfl⟩, rfl, rfl, rfl, rfl, rfl⟩

/-- Settles O5: `decodeCommand_error_iff` says which words; the transfer of one is fault entry or, in FAULT,
STATUS alone. -/
theorem illegalWordsAreReservedAndRaiseEill : Obligations.IllegalWordsAreReservedAndRaiseEill := by
  intro c
  refine ⟨decodeCommand_error_iff c, fun s rest e hr hp he => ⟨fun hf => ?_, fun hf => ?_⟩⟩
  · exact ⟨_, by rw [step_transfer hr hf hp, he]; rfl, raiseFault_entersFault { s with pending := rest } .eill⟩
  · have hc : c ≠ 0xF000 := by
      rintro rfl
      cases he
    rw [step_transfer_fault hf hp, if_neg hc]
    rfl

/-! ### The response (R69) -/

theorem commandEffect_pending (s : State) (d : Except Reject Instr) : (commandEffect s d).pending = s.pending := by
  rcases commandEffect_cases s d with
    ⟨e, -, h⟩ | ⟨-, h⟩ | ⟨b, -, -, -, h⟩ | ⟨-, -, h⟩ | ⟨v, -, h⟩ | ⟨-, h⟩ | h <;> rw [h]
  case inr.inr.inl => exact appendByte_pending s b
  all_goals rfl

theorem respondStatus_responses (s : State) : s.respondStatus.responses = s.responses ++ [s.respondStatus.status] := rfl

/-- A command that is no digest read in DONE responds with the STATUS it leaves. -/
theorem commandEffect_responses {s : State} {c : BitVec 16}
    (h : s.PH = .done → ∀ i j, decodeCommand c ≠ .ok (.rdw i) ∧ decodeCommand c ≠ .ok (.rdb j)) :
    (commandEffect s (decodeCommand c)).responses =
      s.responses ++ [(commandEffect s (decodeCommand c)).status] := by
  cases hd : decodeCommand c with
  | error e => rfl
  | ok i =>
    have hc := decodeCommand_isCommand hd
    cases i with
    | init | stat | srst => rfl
    | pushb b =>
      simp only [commandEffect]
      split_ifs
      · rfl
      · rfl
      · rw [respondStatus_responses, appendByte_responses]
    | final => simp only [commandEffect]; split_ifs <;> rfl
    | rdw k =>
      have hp : s.PH ≠ .done := fun hp => (h hp k 0).1 hd
      rw [commandEffect, if_pos hp]
      rfl
    | rdb k =>
      have hp : s.PH ≠ .done := fun hp => (h hp 0 k).2 hd
      rw [commandEffect, if_pos hp]
      rfl
    | padb _ | wld _ | wex _ | rld _ | rnd _ | feed _ => cases hc

/-- RDB's byte is the byte of the serialized digest (R155, R161). -/
theorem digestByte_eq_serialize (H : Vector Word 8) (j : BitVec 5) :
    digestByte H j = (Reference.serialize H)[j.toFin] := by
  have hword : (j.extractLsb' 2 3).toNat = j.toNat / 4 := by
    rw [BitVec.extractLsb'_toNat, Nat.shiftRight_eq_div_pow]
    omega
  have hbyte : (j.extractLsb' 0 2).toNat = j.toNat % 4 := BitVec.extractLsb'_toNat 0 2 j
  refine Eq.trans ?_ (Reference.serialize_getElem H j.toNat j.isLt).symm
  simp only [digestByte, digestWord, hbyte, Fin.getElem_fin, BitVec.val_toFin, hword]

/-- Settles O6: a transfer in FAULT responds with STATUS; outside it the command's effect is one response, by case. -/
theorem everyTransferGivesOneResponse : Obligations.EveryTransferGivesOneResponse := by
  intro s c rest hr hp
  by_cases hf : s.PH = .fault
  · have hdone : s.PH ≠ .done := by simp [hf]
    refine ⟨_, step_transfer_fault hf hp, ?_, fun i h => absurd h hdone, fun j h => absurd h hdone, fun _ => ?_⟩
    · split_ifs <;> rfl
    · split_ifs <;> rfl
  · refine ⟨_, step_transfer hr hf hp, commandEffect_pending { s with pending := rest } _, fun i hdone hd => ?_,
      fun j hdone hd => ?_, commandEffect_responses (s := { s with pending := rest })⟩
    · rw [hd, commandEffect, if_neg (not_not.2 hdone)]
      rfl
    · rw [hd, commandEffect, if_neg (not_not.2 hdone), digestByte_eq_serialize]
      rfl

end Sys2Proof.Machine
end

section
/-! What the sequencer selects, and where it has no step (30_encoding.md R66; 93_implementation_defined.md U10). -/

namespace Sys2Proof.Machine

/-- Settles O11: `decodeMicroOp_selection`, read phase by phase. -/
theorem thePhaseSelectsTheMicroOperation : Obligations.ThePhaseSelectsTheMicroOperation := by
  intro s
  rw [decodeMicroOp_selection]
  refine ⟨fun hr => ?_, fun hp => ?_, fun hp => ?_, fun hp => ?_, fun hp => ?_, fun hp => ?_, fun hp => ?_⟩
  case refine_1 => rcases s.ready_iff.1 hr with hp | hp | hp | hp <;> rw [hp]
  all_goals rw [hp]

theorem exec_of_not_wellFormed {i : Instr} (h : i.wellFormed = false) (s : State) :
    exec i s = .fault .stepIndexOutOfRange := by
  cases i with
  | init | pushb _ | final | rdw _ | rdb _ | stat | srst | rnd _ => cases h
  | padb t | rld t | feed t => exact if_pos (of_decide_eq_false h)
  | wld t | wex t => exact dif_neg (of_decide_eq_false h)

/-- Settles O28: the step index is checked first, then `PADST`; in each of these states a check fails. -/
theorem microOperationsStopWhereThereIsNoStep : Obligations.MicroOperationsStopWhereThereIsNoStep := by
  intro s
  refine ⟨fun i hi => exec_of_not_wellFormed hi s, fun hq => ?_, fun hq => ?_⟩
  · rcases hq with hq | hq <;> simp [exec, execPadb, hq]
  · simp [exec, execFeed, hq]

end Sys2Proof.Machine
end

section
/-! The lines of a command trace and the expansion of PUSHS (30_encoding.md R67, R68). -/

namespace Sys2Proof.Assembler

theorem charByte?_of_le {c : Char} (h : c.toNat ≤ 255) : charByte? c = some (BitVec.ofNat 8 c.toNat) :=
  if_pos (Nat.lt_succ_of_le h)

theorem charByte?_of_gt {c : Char} (h : 255 < c.toNat) : charByte? c = none :=
  if_neg (Nat.not_lt.2 h)

theorem mapM_charByte?_of_le {text : List Char} (h : ∀ c ∈ text, c.toNat ≤ 255) :
    text.mapM charByte? = some (text.map fun c => BitVec.ofNat 8 c.toNat) := by
  induction text with
  | nil => rfl
  | cons c cs ih =>
    rw [List.forall_mem_cons] at h
    simp [List.mapM_cons, charByte?_of_le h.1, ih h.2]

theorem mapM_charByte?_of_gt {text : List Char} {c : Char} (hc : c ∈ text) (h : 255 < c.toNat) :
    text.mapM charByte? = none := by
  induction text with
  | nil => cases hc
  | cons d ds ih =>
    rw [List.mapM_cons]
    rcases List.mem_cons.1 hc with rfl | hc
    · rw [charByte?_of_gt h]
      rfl
    · cases charByte? d <;> simp [ih hc]

/-- Settles O8: a text of byte codes is accepted as a whole, and one code above 255 refuses it. -/
theorem pushsRefusesCodesAboveOneByte : Obligations.PushsRefusesCodesAboveOneByte := by
  intro text
  have haccept (h : ∀ c ∈ text, c.toNat ≤ 255) :
      (Pseudo.pushs text).expansion = some (text.map fun c => .pushb (BitVec.ofNat 8 c.toNat)) := by
    simp [Pseudo.expansion, mapM_charByte?_of_le h, pushes]
  refine ⟨⟨fun hnone => ?_, ?_⟩, haccept⟩
  · by_contra! hle
    rw [haccept hle] at hnone
    cases hnone
  · rintro ⟨c, hc, h⟩
    rw [Pseudo.expansion, mapM_charByte?_of_gt hc h]
    rfl

/-- Settles O7: the four lines are parsed and their words computed. -/
theorem traceLinesStandForTheirWords : Obligations.TraceLinesStandForTheirWords :=
  ⟨rfl, rfl, rfl, rfl⟩

end Sys2Proof.Assembler
end

section
/-! The word functions by number and bit by bit (40_word_functions.md R81 to R89). -/

namespace Sys2Proof.Machine

theorem rotr_eq_rotateRight {n : Nat} (hn : n < 32) (x : Word) : rotr x n = x.rotateRight n := by
  rw [rotr, BitVec.rotateRight_def, Nat.mod_eq_of_lt hn]

/-- R81, bit by bit. -/
theorem getLsbD_rotr {n i : Nat} (hn : n < 32) (hi : i < 32) (x : Word) :
    (rotr x n).getLsbD i = x.getLsbD ((i + n) % 32) := by
  rw [rotr_eq_rotateRight hn, BitVec.getLsbD_rotateRight, Nat.mod_eq_of_lt hn]
  by_cases hwrap : i < 32 - n
  · rw [decide_eq_true hwrap, cond_true, show n + i = (i + n) % 32 by omega]
  · rw [decide_eq_false hwrap, cond_false, decide_eq_true hi, Bool.true_and,
      show i - (32 - n) = (i + n) % 32 by omega]

/-- R82: the quotient, zeros entering at the top. -/
theorem toNat_shr (x : Word) (n : Nat) : (shr x n).toNat = x.toNat / 2 ^ n := by
  rw [shr, BitVec.toNat_ushiftRight, Nat.shiftRight_eq_div_pow]

theorem getLsbD_shr (x : Word) (n i : Nat) : (shr x n).getLsbD i = (decide (i + n < 32) && x.getLsbD (i + n)) := by
  rw [shr, BitVec.getLsbD_ushiftRight, Nat.add_comm n i]
  by_cases hin : i + n < 32
  · rw [decide_eq_true hin, Bool.true_and]
  · rw [decide_eq_false hin, Bool.false_and, BitVec.getLsbD_of_ge x _ (Nat.not_lt.1 hin)]

/-- The low `n` bits of `x`, moved to the top of the word: what a rotation adds to the shift. -/
theorem toNat_shiftLeft_complement {n : Nat} (hn : n ≤ 32) (x : Word) :
    (x <<< (32 - n)).toNat = x.toNat % 2 ^ n * 2 ^ (32 - n) := by
  have hpow : 2 ^ 32 = 2 ^ n * 2 ^ (32 - n) := by rw [← Nat.pow_add, Nat.add_sub_cancel' hn]
  rw [BitVec.toNat_shiftLeft, Nat.shiftLeft_eq, hpow, Nat.mul_mod_mul_right]

/-- R81, by number: the quotient stays below bit `32 - n`, where the low bits of `x` enter, so the two add up. -/
theorem toNat_rotr {n : Nat} (hn : n ≤ 32) (x : Word) :
    (rotr x n).toNat = x.toNat / 2 ^ n + x.toNat % 2 ^ n * 2 ^ (32 - n) := by
  have hquot : x.toNat / 2 ^ n < 2 ^ (32 - n) := by
    rw [Nat.div_lt_iff_lt_mul (Nat.two_pow_pos n), ← Nat.pow_add, Nat.sub_add_cancel hn]
    exact x.isLt
  calc (rotr x n).toNat
      = (shr x n).toNat ||| (x <<< (32 - n)).toNat := BitVec.toNat_or _ _
    _ = x.toNat / 2 ^ n ||| (x.toNat % 2 ^ n) <<< (32 - n) := by
        rw [toNat_shr, toNat_shiftLeft_complement hn, Nat.shiftLeft_eq]
    _ = x.toNat / 2 ^ n + x.toNat % 2 ^ n * 2 ^ (32 - n) := by
        rw [Nat.or_comm, ← Nat.shiftLeft_add_eq_or_of_lt hquot, Nat.shiftLeft_eq, Nat.add_comm]

/-- Settles O39, with R81's bit form and its number form each a lemma. -/
theorem rotationIsCircular : Obligations.RotationIsCircular := by
  intro x n _ hn
  exact ⟨fun i hi => getLsbD_rotr (Nat.lt_succ_of_le hn) hi x, toNat_rotr (Nat.le_succ_of_le hn) x⟩

/-- R84: "choose". -/
theorem getLsbD_ch {i : Nat} (hi : i < 32) (x y z : Word) :
    (ch x y z).getLsbD i = if x.getLsbD i then y.getLsbD i else z.getLsbD i := by
  rw [ch, BitVec.getLsbD_xor, BitVec.getLsbD_and, BitVec.getLsbD_and, BitVec.getLsbD_not, decide_eq_true hi]
  cases x.getLsbD i <;> simp

/-- R85: "majority", by the truth table of the formula. -/
theorem getLsbD_maj (x y z : Word) (i : Nat) :
    (maj x y z).getLsbD i = decide (2 ≤ [x.getLsbD i, y.getLsbD i, z.getLsbD i].count true) := by
  have htable : ∀ a b c : Bool, ((a && b) ^^ (a && c) ^^ (b && c)) = decide (2 ≤ [a, b, c].count true) := by decide
  simpa only [maj, BitVec.getLsbD_xor, BitVec.getLsbD_and] using htable _ _ _

/-- Settles O40. -/
theorem shiftChooseAndMajority : Obligations.ShiftChooseAndMajority := by
  intro x y z
  exact ⟨toNat_shr x 3, toNat_shr x 10, fun i hi => ⟨getLsbD_ch hi x y z, getLsbD_maj x y z i⟩⟩

/-- R86, R87: three rotations. -/
theorem getLsbD_rotr_xor_rotr_xor_rotr {a b c i : Nat} (ha : a < 32) (hb : b < 32) (hc : c < 32) (hi : i < 32)
    (x : Word) :
    (rotr x a ^^^ rotr x b ^^^ rotr x c).getLsbD i =
      (x.getLsbD ((i + a) % 32) ^^ x.getLsbD ((i + b) % 32) ^^ x.getLsbD ((i + c) % 32)) := by
  rw [BitVec.getLsbD_xor, BitVec.getLsbD_xor, getLsbD_rotr ha hi, getLsbD_rotr hb hi, getLsbD_rotr hc hi]

/-- R88, R89: two rotations and a shift. -/
theorem getLsbD_rotr_xor_rotr_xor_shr {a b i : Nat} (ha : a < 32) (hb : b < 32) (hi : i < 32) (x : Word) (c : Nat) :
    (rotr x a ^^^ rotr x b ^^^ shr x c).getLsbD i =
      (x.getLsbD ((i + a) % 32) ^^ x.getLsbD ((i + b) % 32) ^^ (decide (i + c < 32) && x.getLsbD (i + c))) := by
  rw [BitVec.getLsbD_xor, BitVec.getLsbD_xor, getLsbD_rotr ha hi, getLsbD_rotr hb hi, getLsbD_shr]

/-- Settles O41: each mixing function is one of the two shapes, at the amounts of its rule. -/
theorem mixingFunctionsBitByBit : Obligations.MixingFunctionsBitByBit := by
  intro x i hi
  refine ⟨?bsig0, ?bsig1, ?ssig0, ?ssig1⟩
  case bsig0 => exact getLsbD_rotr_xor_rotr_xor_rotr (by decide) (by decide) (by decide) hi x
  case bsig1 => exact getLsbD_rotr_xor_rotr_xor_rotr (by decide) (by decide) (by decide) hi x
  case ssig0 => exact getLsbD_rotr_xor_rotr_xor_shr (by decide) (by decide) hi x 3
  case ssig1 => exact getLsbD_rotr_xor_rotr_xor_shr (by decide) (by decide) hi x 10

end Sys2Proof.Machine
end

section
/-! The padded stream by bytes and by bits, and its cut into blocks (41_preprocessor.md R102 to R105). -/

namespace Sys2Proof.Reference

/-! ### Lists written row by row -/

/-- The places of `rows` rows of `width` places each, row after row, are the places in order. -/
theorem flatMap_range_map {α : Type} (rows width : Nat) (f : Nat → α) :
    ((List.range rows).flatMap fun q => (List.range width).map fun p => f (width * q + p)) =
      (List.range (width * rows)).map f := by
  induction rows with
  | zero => rfl
  | succ rows ih =>
    rw [List.range_succ, List.flatMap_append, ih, Nat.mul_succ, List.range_add, List.map_append, List.map_map]
    simp

/-- A list read place by place. -/
theorem map_getD_range {α : Type} (l : List α) (d : α) : (List.range l.length).map (fun i => l.getD i d) = l := by
  refine List.ext_getElem (by simp) fun i hi h => ?_
  simp [List.getElem?_eq_getElem h]

/-! ### The lengths (R102, R103, R105) -/

theorem pad_length (m : List Byte) : (pad m).length = m.length + 1 + zeroBytes m.length + 8 := by
  simp only [pad, lengthBytes, List.length_append, List.length_replicate, List.length_map, List.length_range,
    List.length_singleton]

theorem zeroBits_eq (len : Nat) : zeroBits len = 8 * zeroBytes len + 7 := by
  unfold zeroBits zeroBytes
  omega

theorem blockCount_eq (len : Nat) : blockCount len = len / 64 + 1 + (if 56 ≤ len % 64 then 1 else 0) := by
  unfold blockCount
  split_ifs <;> omega

/-- `z` zero bytes fill the last block up to the length (R103, R105). -/
theorem pad_length_eq_blocks (m : List Byte) : (pad m).length = 64 * blockCount m.length := by
  rw [pad_length, zeroBytes, blockCount]
  omega

/-! ### The bits of the stream (R101, R102) -/

/-- The bits of the eight length bytes are the 64 bits of the length. -/
theorem lengthBytes_flatMap_byteBits (len : Nat) : (lengthBytes len).flatMap byteBits = lengthBits len := by
  have hbyte (i : Nat) (hi : i ∈ List.range 8) :
      byteBits ((BitVec.ofNat 64 (8 * len)).extractLsb' (56 - 8 * i) 8) =
        (List.range 8).map fun j => (8 * len).testBit (63 - (8 * i + j)) := by
    rw [List.mem_range] at hi
    refine List.map_congr_left fun j hj => ?_
    rw [List.mem_range] at hj
    rw [BitVec.getLsbD_extractLsb', BitVec.getLsbD_ofNat, decide_eq_true (by omega), decide_eq_true (by omega),
      Bool.true_and, Bool.true_and, show 56 - 8 * i + (7 - j) = 63 - (8 * i + j) by omega]
  rw [lengthBytes, List.flatMap_map, lengthBits, ← flatMap_range_map 8 8 fun i => (8 * len).testBit (63 - i)]
  exact List.flatMap_congr hbyte

/-- The '1' bit opens the byte 0x80, and seven of the '0' bits end it. -/
theorem byteBits_padByte : byteBits 0x80 = [true] ++ List.replicate 7 false := by decide

theorem replicate_zero_flatMap_byteBits (z : Nat) :
    (List.replicate z (0x00 : Byte)).flatMap byteBits = List.replicate (8 * z) false := by
  induction z with
  | zero => rfl
  | succ z ih =>
    rw [List.replicate_succ, List.flatMap_cons, ih, show 8 * (z + 1) = 8 + 8 * z by omega,
      List.replicate_add]
    rfl

theorem pad_flatMap_byteBits (m : List Byte) : (pad m).flatMap byteBits = paddedBits m := by
  rw [pad, paddedBits, zeroBits_eq, Nat.add_comm _ 7, List.replicate_add]
  simp only [messageBits, List.flatMap_append, List.flatMap_singleton, byteBits_padByte, List.append_assoc,
    replicate_zero_flatMap_byteBits, lengthBytes_flatMap_byteBits]

theorem flatMap_byteBits_length (bs : List Byte) : (bs.flatMap byteBits).length = 8 * bs.length := by
  simp [List.length_flatMap, byteBits, Nat.mul_comm]

/-- Settles O42: part by part the stream's bytes give its bits, and the lengths are arithmetic modulo 64 and 512. -/
theorem paddedStreamInBytesIsTheBitStream : Obligations.PaddedStreamInBytesIsTheBitStream := by
  intro m
  have hlen := pad_length_eq_blocks m
  refine ⟨pad_flatMap_byteBits m, ?_, fun k hk => ?_, zeroBits_eq m.length, ?_, ?_, ?_, ?_, pad_length m, by omega⟩
  · unfold zeroBits; omega
  · unfold zeroBits; omega
  · unfold zeroBytes; omega
  · unfold zeroBytes; omega
  · unfold zeroBytes; omega
  · rw [← pad_flatMap_byteBits, flatMap_byteBits_length]
    omega

/-! ### The blocks of the stream (R104, R105) -/

theorem block_toList (m : List Byte) (q : Nat) :
    (block m q).toList = (List.range 64).map fun p => (pad m).getD (64 * q + p) 0 := by
  refine List.ext_getElem (by simp) fun i hi h => ?_
  simp [block]

theorem blocks_flatMap_toList (m : List Byte) : (blocks m).flatMap Vector.toList = pad m := by
  rw [blocks, List.flatMap_map]
  simp only [block_toList]
  rw [flatMap_range_map (blockCount m.length) 64 fun i => (pad m).getD i 0, ← pad_length_eq_blocks, map_getD_range]

/-- Settles O43. -/
theorem blocksCutThePaddedStream : Obligations.BlocksCutThePaddedStream := by
  intro m
  exact ⟨blockCount_eq m.length, pad_length_eq_blocks m, blocks_flatMap_toList m⟩

/-! ### The bytes of the stream (R103) -/

section
variable {m : List Byte} {i : Nat}

theorem pad_getD_message (h : i < m.length) : (pad m).getD i 0 = m[i] := by
  rw [pad, List.append_assoc, List.append_assoc, List.getD_append _ _ _ _ h, List.getD_eq_getElem _ _ h]

theorem pad_getD_mark (m : List Byte) : (pad m).getD m.length 0 = 0x80 := by
  rw [pad, List.append_assoc, List.append_assoc, List.getD_append_right _ _ _ _ (Nat.le_refl _), Nat.sub_self]
  rfl

theorem pad_getD_zero (h : m.length < i) (hz : i + 8 < (pad m).length) : (pad m).getD i 0 = 0x00 := by
  rw [pad_length] at hz
  have hlen : (m ++ [0x80]).length = m.length + 1 := by simp
  rw [pad, List.getD_append _ _ _ _ (by rw [List.length_append, List.length_replicate]; omega),
    List.getD_append_right _ _ _ _ (by omega),
    List.getD_eq_getElem _ _ (by rw [List.length_replicate]; omega), List.getElem_replicate]

/-- The length's bytes, counted from the end of the stream. -/
theorem pad_getD_length (hl : (pad m).length ≤ i + 8) (h : i < (pad m).length) :
    (pad m).getD i 0 = (BitVec.ofNat 64 (8 * m.length)).extractLsb' (8 * ((pad m).length - 1 - i)) 8 := by
  have hlen := pad_length m
  have hfront : (m ++ [0x80] ++ List.replicate (zeroBytes m.length) 0x00).length + 8 = (pad m).length := by
    rw [hlen]
    simp only [List.length_append, List.length_replicate, List.length_singleton]
  calc (pad m).getD i 0
      = (lengthBytes m.length).getD (i - (m ++ [0x80] ++ List.replicate (zeroBytes m.length) 0x00).length) 0 :=
        List.getD_append_right _ _ _ _ (by omega)
    _ = (BitVec.ofNat 64 (8 * m.length)).extractLsb' (8 * ((pad m).length - 1 - i)) 8 := by
        rw [lengthBytes, List.getD_eq_getElem _ _ (by rw [List.length_map, List.length_range]; omega),
          List.getElem_map, List.getElem_range]
        congr 1
        omega

end

theorem block_getElem (m : List Byte) (q i : Nat) (hi : i < 64) : (block m q)[i] = (pad m).getD (64 * q + i) 0 := by
  simp [block]

/-- The block that holds the last message bytes: the mark behind them, then zeros, and the length where it fits. -/
theorem block_getElem_mark (m : List Byte) (i : Nat) (hi : i < 64) (h : m.length % 64 ≤ i) :
    (block m (m.length / 64))[i] =
      if i = m.length % 64 then 0x80
      else if m.length % 64 ≤ 55 ∧ 56 ≤ i then (BitVec.ofNat 64 (8 * m.length)).extractLsb' (8 * (63 - i)) 8
      else 0x00 := by
  have hlen := pad_length_eq_blocks m
  rw [blockCount_eq] at hlen
  rw [block_getElem]
  by_cases hmark : i = m.length % 64
  · rw [if_pos hmark, show 64 * (m.length / 64) + i = m.length by omega, pad_getD_mark]
  rw [if_neg hmark]
  split_ifs with hfits
  · rw [if_neg (by omega)] at hlen
    rw [pad_getD_length (by omega) (by omega)]
    congr 1
    omega
  · exact pad_getD_zero (by omega) (by split_ifs at hlen <;> omega)

/-- The extra block, where the length does not fit behind the message. -/
theorem block_getElem_extra (m : List Byte) (i : Nat) (hi : i < 64) (h : 56 ≤ m.length % 64) :
    (block m (m.length / 64 + 1))[i] =
      if 56 ≤ i then (BitVec.ofNat 64 (8 * m.length)).extractLsb' (8 * (63 - i)) 8 else 0x00 := by
  have hlen := pad_length_eq_blocks m
  rw [blockCount_eq, if_pos h] at hlen
  rw [block_getElem]
  split_ifs with h56
  · rw [pad_getD_length (by omega) (by omega)]
    congr 1
    omega
  · exact pad_getD_zero (by omega) (by omega)

end Sys2Proof.Reference
end

section
/-! PUSHB, FINAL and PADB, each as one instruction (41_preprocessor.md R107 to R109). -/

namespace Sys2Proof.Machine

/-! ### A command outside FAULT and in it -/

theorem exists_commandWord {i : Instr} (hi : i.isCommand = true) : ∃ c, decodeCommand c = .ok i := by
  cases i with
  | init | pushb _ | final | rdw _ | rdb _ | stat | srst => exact ⟨_, (decodeCommand_eq_ok_iff _ _).2 rfl⟩
  | padb _ | wld _ | wex _ | rld _ | rnd _ | feed _ => cases hi

/-- What a command does to a ready engine is what its transfer does (44_driver_and_commands.md R150). -/
theorem exec_command {i : Instr} (hi : i.isCommand = true) {s : State} (hr : s.ready = true) (hf : s.PH ≠ .fault) :
    exec i s = .next (commandEffect s (.ok i)) := by
  obtain ⟨c, hc⟩ := exists_commandWord hi
  have h := transfer_ready hr hf c
  rwa [transfer, hc] at h

/-- In FAULT a command other than SRST is discarded (60_exceptions.md R186). -/
theorem exec_command_fault {i : Instr} (hi : i.isCommand = true) (hs : i ≠ .srst) {s : State} (hf : s.PH = .fault) :
    exec i s = .next s.respondStatus := by
  obtain ⟨c, hc⟩ := exists_commandWord hi
  have hc' : c ≠ 0xF000 := by
    rintro rfl
    exact hs (Except.ok.inj (hc.symm.trans ((decodeCommand_srst_iff _).2 rfl)))
  have h := transfer_fault hf c
  rwa [transfer, hc, if_neg hc'] at h

theorem exec_absorbing {i : Instr} (hi : i.isCommand = true) {s : State} (hp : s.PH = .absorb) :
    exec i s = .next (commandEffect s (.ok i)) :=
  exec_command hi (s.ready_iff.2 (.inr (.inl hp))) (by simp [hp])

/-- PUSHB and FINAL in IDLE and DONE (R107, R108). -/
theorem exec_out_of_sequence {i : Instr} (hi : i = .final ∨ ∃ d, i = .pushb d) {s : State}
    (hp : s.PH = .idle ∨ s.PH = .done) : ∃ t, exec i s = .next t ∧ s.entersFault t .eseq := by
  have hc : i.isCommand = true := by rcases hi with rfl | ⟨d, rfl⟩ <;> rfl
  obtain ⟨hready, hfault, habsorb⟩ : s.ready = true ∧ s.PH ≠ .fault ∧ s.PH ≠ .absorb := by
    rcases hp with hp | hp <;> simp [State.ready, Phase.ready, hp]
  have heffect : commandEffect s (.ok i) = s.raiseFault .eseq := by
    rcases hi with rfl | ⟨d, rfl⟩ <;> exact if_pos habsorb
  exact ⟨_, by rw [exec_command hc hready hfault, heffect], raiseFault_entersFault s .eseq⟩

/-- No micro-operation touches the host's side, the message length or the fault code. -/
theorem sequencerStep_frame {s t : State} (h : sequencerStep s = .next t) :
    s.sameHost t ∧ t.responses = s.responses ∧ t.LEN = s.LEN ∧ t.ECODE = s.ECODE := by
  rcases sequencerStep_next h with ⟨-, rfl⟩ | ⟨-, -, -, rfl⟩ | ⟨-, -, -, rfl⟩ | ⟨-, -, rfl⟩ | ⟨-, -, rfl⟩ |
    ⟨-, -, rfl⟩ | ⟨-, rfl⟩ | ⟨-, -, -, rfl⟩ <;> simp [State.sameHost]

theorem hostHolds_command {s : State} {c : BitVec 16} {rest : List HostEvent} (h : s.pending = .command c :: rest) :
    s.hostHolds = true := by
  simp [State.hostHolds, h]

/-! ### PUSHB (R107) -/

theorem encode_pushb (d : Byte) : encode (.pushb d) = .command (0x2000 ||| d.zeroExtend 16) := by
  have hword : ∀ d : Byte, 0b00100000#8 ++ d = 0x2000 ||| d.zeroExtend 16 := by decide
  exact congrArg CodeWord.command (hword d)

theorem eq_lenMax_iff (x : BitVec 64) : x = lenMax ↔ x.toNat = 2 ^ 64 - 8 := BitVec.toNat_inj.symm

theorem pushb_accepted {s : State} (hp : s.PH = .absorb) (hmax : s.LEN ≠ lenMax) (d : Byte) :
    commandEffect s (.ok (.pushb d)) = (appendByte s d).respondStatus := by
  rw [commandEffect, if_neg (not_not.2 hp), if_neg hmax]

/-- A byte that leaves room in the block is counted. -/
theorem appendByte_N_toNat {s : State} (h : s.N.toNat < 63) (d : Byte) :
    (appendByte s d).N.toNat = s.N.toNat + 1 := by
  have h63 : s.N ≠ 63 := fun h' => by simp [h'] at h
  rw [appendByte_N, if_neg h63]
  bv_omega

/-- Settles O16: PUSHB's effect by phase and length; the accepted byte is `appendByte`, read field by field. -/
theorem pushbAppendsOneMessageByte : Obligations.PushbAppendsOneMessageByte := by
  intro d s
  refine ⟨encode_pushb d, fun hp hlen => ?accepted, fun hp hlen => ?tooLong, fun hp => ?wrongPhase, fun hp => ?inFault,
    fun rest t hb hp h => ?held⟩
  case accepted =>
    rw [ne_eq, ← eq_lenMax_iff] at hlen
    rw [exec_absorbing rfl hp, pushb_accepted hp hlen]
    refine ⟨_, rfl, fun k => ?_, appendByte_LEN s d, fun h8 => ?_, fun hN => ?_, fun hN => ?_, ?_, ?_⟩
    · rw [State.respondStatus_B, appendByte_B]
      exact memWrite_byte_getElem s.B s.N.toNat d k.val k.isLt
    · rw [eq_lenMax_iff] at hlen
      rw [State.respondStatus_LEN, appendByte_LEN]
      bv_omega
    · have h63 : s.N = 63#6 := BitVec.eq_of_toNat_eq hN
      simp [h63]
    · have h63 : s.N ≠ 63#6 := fun h => by simp [h] at hN
      exact ⟨appendByte_N_toNat hN d, by simp [h63, hp], by simp [h63]⟩
    · rw [respondStatus_responses, appendByte_responses]
    · simp [State.sameHost]
  case tooLong =>
    rw [exec_absorbing rfl hp, commandEffect, if_neg (not_not.2 hp), if_pos ((eq_lenMax_iff _).2 hlen)]
    exact ⟨_, rfl, raiseFault_entersFault s .elen⟩
  case wrongPhase => exact exec_out_of_sequence (.inr ⟨d, rfl⟩) hp
  case inFault => exact exec_command_fault rfl (by simp) hp
  case held =>
    rw [step_busy hb (hostHolds_command hp)] at h
    obtain ⟨⟨hpending, -⟩, hresponses, hlen, -⟩ := sequencerStep_frame h
    exact ⟨hpending, hresponses, hlen⟩

/-! ### FINAL (R108) -/

theorem final_accepted {s : State} (hp : s.PH = .absorb) :
    commandEffect s (.ok .final) = ({ s with PADST := .first }.setSeq .pad 0).respondStatus :=
  if_neg (not_not.2 hp)

/-- Settles O17: FINAL writes `PADST` and `SEQ` alone, and its response is read off by `status_toNat`. -/
theorem finalStartsPadding : Obligations.FinalStartsPadding := by
  refine ⟨rfl, fun s => ⟨fun hp => ?accepted, fun hp => ?wrongPhase⟩⟩
  case accepted =>
    rw [exec_absorbing rfl hp, final_accepted hp]
    refine ⟨_, rfl, rfl, rfl, rfl, rfl, fun he => ?_, rfl, rfl, ⟨rfl, rfl, rfl, rfl⟩, rfl, rfl, rfl⟩
    rw [status_toNat]
    simp [he, Phase.code, ErrorCode.code]
  case wrongPhase => exact exec_out_of_sequence (.inl rfl) hp

/-! ### PADB (R109) -/

/-- A byte of the length by number. -/
theorem length_byte_toNat (x : BitVec 64) (j : Nat) : (x.extractLsb' (8 * j) 8).toNat = x.toNat / 256 ^ j % 256 := by
  rw [BitVec.extractLsb'_toNat, Nat.shiftRight_eq_div_pow, Nat.pow_mul]

/-- Settles O22: the block's bytes are those of `padFirst_B_getElem` and `padMore_B_getElem`, case by case. -/
theorem padbBuildsThePaddingBlock : Obligations.PadbBuildsThePaddingBlock := by
  refine ⟨rfl, fun s hq => ?_⟩
  rcases hq with hq | hq
  case inl =>
    have hB (k : Fin 64) : (padDone (padFirst s)).B[k] = _ := padFirst_B_getElem s k.val k.isLt
    refine ⟨_, execPadb_first hq, fun _ => ⟨fun k hk => ?kept, fun k hk => ?mark, fun k hk h55 => ?zeros, fun hN => ?_,
      fun hN => ?_⟩, fun h => absurd (hq.symm.trans h) (by decide), fun h k hk => ?length, ?_⟩
    case kept => rw [hB, if_pos hk]; rfl
    case mark => rw [hB, if_neg (by omega), if_pos hk]
    case zeros => rw [hB, if_neg (by omega), if_neg (by omega), if_neg (by omega)]
    case length =>
      have hN : s.N.toNat ≤ 55 := h.resolve_left fun h => absurd (hq.symm.trans h) (by decide)
      rw [hB, if_neg (by omega), if_neg (by omega), if_pos ⟨hN, hk⟩, length_byte_toNat]
    · simp [hN]
    · simp [show ¬s.N.toNat ≤ 55 by omega]
    · simp [State.sameHost]
  case inr =>
    have hB (k : Fin 64) : (padDone (padMore s)).B[k] = _ := padMore_B_getElem s k.val k.isLt
    refine ⟨_, execPadb_more hq, fun h => absurd (hq.symm.trans h) (by decide), fun _ => ⟨fun k hk => ?zeros, rfl⟩,
      fun _ k hk => ?length, ?_⟩
    case zeros => rw [hB, if_neg (by omega)]
    case length => rw [hB, if_pos hk, length_byte_toNat]
    · simp [State.sameHost]

end Sys2Proof.Machine
end

section
/-! A run together with the blocks it hands to the scheduler, and the 130 steps of one block (41_preprocessor.md R110;
44_driver_and_commands.md R165). -/

namespace Sys2Proof.Machine

open Reference (Block)

/-! ### Runs that hand over blocks -/

/-- `n` steps lead from `s` to `t`, and the buffer held `bs` at the entries of WLOAD on the way, in this order. -/
def RunHandsOver (n : Nat) (s t : State) (bs : List Block) : Prop :=
  run n s = .next t ∧ blocksHandedOver (trace n s) = bs

theorem blocksHandedOver_entry {s : State} (hp : s.PH = .wload) (hT : s.T = 0) : blocksHandedOver [s] = [s.B] := by
  simp [blocksHandedOver, hp, hT]

theorem blocksHandedOver_elsewhere {s : State} (h : s.PH = .wload → s.T ≠ 0) : blocksHandedOver [s] = [] := by
  simpa [blocksHandedOver] using h

theorem trace_succ {s t : State} (n : Nat) (h : step s = .next t) : trace (n + 1) s = t :: trace n t := by
  rw [trace, h]

theorem trace_add {s t : State} (m n : Nat) (h : run m s = .next t) : trace (m + n) s = trace m s ++ trace n t := by
  induction m generalizing s with
  | zero =>
    cases h
    rw [Nat.zero_add]
    rfl
  | succ m ih =>
    obtain ⟨u, hu, h⟩ := run_succ_next h
    rw [Nat.add_right_comm, trace_succ _ hu, trace_succ _ hu, ih h, List.cons_append]

theorem RunHandsOver.refl (s : State) : RunHandsOver 0 s s [] := ⟨rfl, rfl⟩

theorem RunHandsOver.step {s t : State} (h : step s = .next t) : RunHandsOver 1 s t (blocksHandedOver [t]) :=
  ⟨run_succ 0 h, by rw [trace_succ 0 h, trace]⟩

theorem RunHandsOver.trans {m n : Nat} {s t u : State} {bs cs : List Block} (h : RunHandsOver m s t bs)
    (h' : RunHandsOver n t u cs) : RunHandsOver (m + n) s u (bs ++ cs) := by
  obtain ⟨hrun, hblocks⟩ := h
  obtain ⟨hrun', hblocks'⟩ := h'
  refine ⟨by rw [run_add m n hrun, hrun'], ?_⟩
  rw [trace_add m n hrun, ← hblocks, ← hblocks']
  simp [blocksHandedOver]

/-! ### The steps of a block -/

/-- What the processing of a block leaves alone until FEED: all but `r`, `W` and the sequencer counter. -/
structure State.KeepsContext (s t : State) : Prop where
  H : t.H = s.H
  B : t.B = s.B
  N : t.N = s.N
  LEN : t.LEN = s.LEN
  PADST : t.PADST = s.PADST
  ECODE : t.ECODE = s.ECODE
  responses : t.responses = s.responses
  host : s.sameHost t

theorem State.KeepsContext.refl (s : State) : s.KeepsContext s := ⟨rfl, rfl, rfl, rfl, rfl, rfl, rfl, rfl, rfl⟩

theorem State.KeepsContext.trans {s t u : State} (h : s.KeepsContext t) (h' : t.KeepsContext u) : s.KeepsContext u :=
  ⟨h'.H.trans h.H, h'.B.trans h.B, h'.N.trans h.N, h'.LEN.trans h.LEN, h'.PADST.trans h.PADST, h'.ECODE.trans h.ECODE,
    h'.responses.trans h.responses, h'.host.1.trans h.host.1, h'.host.2.trans h.host.2⟩

theorem State.KeepsContext.hostHolds {s t : State} (h : s.KeepsContext t) (hh : s.hostHolds = true) :
    t.hostHolds = true := by
  rwa [State.hostHolds, h.host.1]

/-- The step index before step `k` of a block's 130 steps, beside `blockPhase` (R165). -/
def blockIndex (k : Nat) : BitVec 6 := BitVec.ofNat 6 (if k < 64 then k else k - 65)

/-- The sequencer counter stands before step `k` of a block's 130 steps. -/
def State.AtBlockStep (k : Nat) (s : State) : Prop := s.PH = blockPhase k ∧ s.T = blockIndex k

theorem blockIndex_toNat_of_lt {k : Nat} (hk : k < 64) : (blockIndex k).toNat = k := by
  rw [blockIndex, if_pos hk, BitVec.toNat_ofNat, Nat.mod_eq_of_lt hk]

theorem blockIndex_toNat_of_ge {k : Nat} (hk : 64 < k) (hk' : k < 129) : (blockIndex k).toNat = k - 65 := by
  rw [blockIndex, if_neg (by omega), BitVec.toNat_ofNat, Nat.mod_eq_of_lt (by omega)]

/-- Where a phase counts on, the place counts on with its index. -/
theorem blockIndex_succ {k : Nat} (hk : k + 1 < 64 ∨ 64 < k) : blockIndex (k + 1) = blockIndex k + 1 := by
  rw [blockIndex, blockIndex, show (1 : BitVec 6) = BitVec.ofNat 6 1 from rfl, ← BitVec.ofNat_add]
  congr 1
  split_ifs <;> omega

theorem afterWld_atBlockStep {s : State} {k : Nat} (hk : k < 16) (hT : s.T = blockIndex k) (h : s.T.toNat < 16) :
    (afterWld s s.T h).AtBlockStep (k + 1) := by
  have hi : s.T.toNat = k := by rw [hT, blockIndex_toNat_of_lt (by omega)]
  have h15 : s.T = 15#6 ↔ k = 15 := by rw [← hi]; exact BitVec.toNat_inj.symm
  constructor
  · rw [afterWld_PH, blockPhase]
    grind
  · rw [afterWld_T]
    split_ifs with hlast
    · rw [h15.1 hlast]; rfl
    · rw [blockIndex_succ (by omega), hT]

theorem afterWex_atBlockStep {s : State} {k : Nat} (hk : 16 ≤ k ∧ k < 64) (hT : s.T = blockIndex k)
    (h : 16 ≤ s.T.toNat) : (afterWex s s.T h).AtBlockStep (k + 1) := by
  have hi : s.T.toNat = k := by rw [hT, blockIndex_toNat_of_lt hk.2]
  have h63 : s.T = 63#6 ↔ k = 63 := by rw [← hi]; exact BitVec.toNat_inj.symm
  constructor
  · rw [afterWex_PH, blockPhase]
    grind
  · rw [afterWex_T]
    split_ifs with hlast
    · rw [h63.1 hlast]; rfl
    · rw [blockIndex_succ (by grind), hT]

theorem afterRnd_atBlockStep {s : State} {k : Nat} (hk : 65 ≤ k ∧ k < 129) (hT : s.T = blockIndex k) :
    (afterRnd s s.T).AtBlockStep (k + 1) := by
  have hi : s.T.toNat = k - 65 := by rw [hT, blockIndex_toNat_of_ge hk.1 hk.2]
  have h63 : s.T = 63#6 ↔ k = 128 := by
    rw [← BitVec.toNat_inj, hi, show (63#6).toNat = 63 from rfl]
    omega
  constructor
  · rw [afterRnd_PH, blockPhase]
    grind
  · rw [afterRnd_T]
    split_ifs with hlast
    · rw [h63.1 hlast]; rfl
    · rw [blockIndex_succ (by omega), hT]

/-- One step inside a block: WLD, WEX, RLD or RND, by the step's place. -/
theorem sequencerStep_atBlockStep {s : State} {k : Nat} (h : s.AtBlockStep k) (hk : k < 129) :
    ∃ t, sequencerStep s = .next t ∧ t.AtBlockStep (k + 1) ∧ s.KeepsContext t := by
  obtain ⟨hp, hT⟩ := h
  rw [sequencerStep_eq, hp]
  rcases (by omega : k < 16 ∨ (16 ≤ k ∧ k < 64) ∨ k = 64 ∨ 65 ≤ k) with hw | hx | rfl | hr
  · rw [show blockPhase k = .wload from if_pos hw]
    have hi : s.T.toNat < 16 := by rw [hT, blockIndex_toNat_of_lt] <;> omega
    exact ⟨_, execWld_eq hi, afterWld_atBlockStep hw hT hi, ⟨rfl, rfl, rfl, rfl, rfl, rfl, rfl, rfl, rfl⟩⟩
  · rw [show blockPhase k = .wexp by rw [blockPhase, if_neg (by omega), if_pos hx.2]]
    have hi : 16 ≤ s.T.toNat := by rw [hT, blockIndex_toNat_of_lt] <;> omega
    exact ⟨_, execWex_eq hi, afterWex_atBlockStep hx hT hi, ⟨rfl, rfl, rfl, rfl, rfl, rfl, rfl, rfl, rfl⟩⟩
  · rw [show s.T = 0 from hT]
    exact ⟨_, execRld_eq s, ⟨rfl, rfl⟩, ⟨rfl, rfl, rfl, rfl, rfl, rfl, rfl, rfl, rfl⟩⟩
  · rw [show blockPhase k = .round by
      rw [blockPhase, if_neg (by omega), if_neg (by omega), if_neg (by omega), if_pos hk]]
    exact ⟨_, execRnd_eq s.T s, afterRnd_atBlockStep ⟨hr, hk⟩ hT, ⟨rfl, rfl, rfl, rfl, rfl, rfl, rfl, rfl, rfl⟩⟩

theorem State.AtBlockStep.busy {s : State} {k : Nat} (h : s.AtBlockStep k) : s.busy = true := by
  have hp : s.PH = _ := h.1
  rw [blockPhase] at hp
  rw [s.busy_iff]
  split_ifs at hp <;> simp [hp]

/-- After the entry of WLOAD the sequencer does not enter WLOAD again in the same block. -/
theorem State.AtBlockStep.not_entry {s : State} {k : Nat} (h : s.AtBlockStep (k + 1)) : s.PH = .wload → s.T ≠ 0 := by
  obtain ⟨hp, hT⟩ := h
  rw [hp, hT]
  intro hw h0
  have hk : k + 1 < 16 := by
    by_contra hge
    rw [blockPhase, if_neg hge] at hw
    split_ifs at hw
  have hi := blockIndex_toNat_of_lt (k := k + 1) (by omega)
  rw [h0] at hi
  cases hi

/-- The first `k` steps of a block, up to FEED (R165). -/
theorem run_atBlockStep {s : State} (h : s.AtBlockStep 0) (hh : s.hostHolds = true) {k : Nat} (hk : k ≤ 129) :
    ∃ t, RunHandsOver k s t [] ∧ t.AtBlockStep k ∧ s.KeepsContext t := by
  induction k with
  | zero => exact ⟨s, .refl s, h, .refl s⟩
  | succ k ih =>
    obtain ⟨t, hrun, ht, hkeep⟩ := ih (by omega)
    obtain ⟨u, hstep, hu, hkeep'⟩ := sequencerStep_atBlockStep ht (by omega)
    have hone : RunHandsOver 1 t u [] := by
      rw [← blocksHandedOver_elsewhere hu.not_entry]
      exact .step (by rw [step_busy ht.busy (hkeep.hostHolds hh), hstep])
    exact ⟨u, hrun.trans hone, hu, hkeep.trans hkeep'⟩

/-- The 130 steps of a block, from the entry of WLOAD through FEED: WLOAD is not entered again. -/
theorem run_block {s : State} (hp : s.PH = .wload) (hT : s.T = 0) (hq : s.PADST ≠ .first) (hh : s.hostHolds = true) :
    ∃ u, s.KeepsContext u ∧ RunHandsOver 130 s (afterFeed u) [] := by
  obtain ⟨u, hrun, hu, hkeep⟩ := run_atBlockStep ⟨hp, hT⟩ hh (Nat.le_refl 129)
  have hfeed : step u = .next (afterFeed u) := by
    rw [step_busy hu.busy (hkeep.hostHolds hh), sequencerStep_eq, show u.PH = .feed from hu.1, show u.T = 0 from hu.2]
    exact execFeed_eq (by rwa [hkeep.PADST])
  have hout : (afterFeed u).PH = .wload → (afterFeed u).T ≠ 0 := by
    rw [afterFeed_PH]
    cases u.PADST <;> simp [feedGoesTo]
  have hall := hrun.trans (.step hfeed)
  rw [blocksHandedOver_elsewhere hout] at hall
  exact ⟨u, hkeep, hall⟩

/-- A step that enters WLOAD hands over the block in the buffer; 130 steps later FEED has used it. -/
theorem run_handOver {s t : State} (hs : step s = .next t) (hp : t.PH = .wload) (hT : t.T = 0)
    (hq : t.PADST ≠ .first) (hh : t.hostHolds = true) :
    ∃ u, t.KeepsContext u ∧ RunHandsOver 131 s (afterFeed u) [t.B] := by
  obtain ⟨u, hkeep, hrun⟩ := run_block hp hT hq hh
  have hall := (RunHandsOver.step hs).trans hrun
  rw [blocksHandedOver_entry hp hT] at hall
  exact ⟨u, hkeep, hall⟩

end Sys2Proof.Machine
end

section
/-! The engine pads and cuts a pushed message as `pad` and `block` do (41_preprocessor.md R110). -/

namespace Sys2Proof.Machine

open Reference (block blocks pad blockCount sequencerSteps)
open Assembler (hostEvents pushes)

/-! ### The host's events -/

theorem hostEvents_cons {i : Instr} {c : BitVec 16} (h : decodeCommand c = .ok i) (is : List Instr) :
    hostEvents (i :: is) = .command c :: hostEvents is := by
  rw [hostEvents, List.filterMap_cons_some ((commandWord?_eq_some_iff i c).2 h)]
  rfl

/-- A host that sends commands alone never waits and never resets. -/
theorem hostHolds_of_hostEvents {s : State} {is : List Instr} (h : s.pending = hostEvents is) :
    s.hostHolds = true := by
  rw [State.hostHolds, h, hostEvents]
  cases is.filterMap commandWord? <;> rfl

/-! ### Taking in the message (R107) -/

/-- The engine is in ABSORB with `k` bytes of the message taken in: the blocks these fill are handed over, and the
buffer begins with the rest of them. The host goes on with the rest of the message, FINAL and the commands `after`. -/
structure State.Absorbed (m : List Byte) (after : List Instr) (k : Nat) (s : State) : Prop where
  phase : s.PH = .absorb
  padding : s.PADST = .none
  count : s.N.toNat = k % 64
  length : s.LEN = BitVec.ofNat 64 (8 * k)
  bytes : ∀ i (h : i < 64), i < k % 64 → s.B[i] = (block m (k / 64))[i]
  host : s.pending = hostEvents (pushes (m.drop k) ++ .final :: after)

section
variable {m : List Byte} {after : List Instr} {s : State}

/-- PUSHB's step on the next byte of the message. -/
theorem step_pushb_absorbed {k : Nat} (h : s.Absorbed m after k) (hk : k < m.length)
    (hm : m.length < 2 ^ 61) :
    step s = .next (appendByte { s with pending := hostEvents (pushes (m.drop (k + 1)) ++ .final :: after) }
      m[k]).respondStatus := by
  obtain ⟨c, hc⟩ := exists_commandWord (i := .pushb m[k]) rfl
  have hpending : s.pending = .command c :: hostEvents (pushes (m.drop (k + 1)) ++ .final :: after) := by
    rw [h.host, List.drop_eq_getElem_cons hk]
    exact hostEvents_cons hc _
  have hmax : s.LEN ≠ lenMax := by
    rw [ne_eq, eq_lenMax_iff, h.length, BitVec.toNat_ofNat]
    omega
  rw [step_transfer (s.ready_iff.2 (.inr (.inl h.phase))) (by simp [h.phase]) hpending, hc,
    pushb_accepted (s := { s with pending := hostEvents _ }) h.phase hmax]

/-- The byte taken in is the next byte of the stream. -/
theorem appendByte_absorbed_B {k i : Nat} (h : s.Absorbed m after k) (hk : k < m.length) (hi : i < 64)
    (hik : i ≤ k % 64) : (memWrite s.B s.N.toNat 1 m[k])[i] = (block m (k / 64))[i] := by
  rw [memWrite_byte_getElem, h.count]
  split_ifs with hlast
  · rw [Reference.block_getElem, show 64 * (k / 64) + i = k by omega, Reference.pad_getD_message hk]
  · exact h.bytes i hi (by omega)

theorem length_add_byte (k : Nat) : BitVec.ofNat 64 (8 * k) + 8#64 = BitVec.ofNat 64 (8 * (k + 1)) := by
  rw [Nat.mul_succ, BitVec.ofNat_add]

/-- A byte that leaves room in the block. -/
theorem step_push_next {k : Nat} (h : s.Absorbed m after k) (hk : k < m.length)
    (hm : m.length < 2 ^ 61) (hroom : k % 64 ≠ 63) :
    ∃ t, step s = .next t ∧ t.Absorbed m after (k + 1) := by
  have hcount : s.N.toNat < 63 := by rw [h.count]; omega
  have h63 : s.N ≠ 63#6 := fun h' => by simp [h'] at hcount
  refine ⟨_, step_pushb_absorbed h hk hm, by simp [h63, h.phase], by simp [h.padding], ?_,
    by simp [h.length, length_add_byte], fun i hi hik => ?_, by simp⟩
  · rw [State.respondStatus_N, appendByte_N_toNat (s := { s with pending := hostEvents _ }) hcount, h.count]
    omega
  · rw [show (k + 1) / 64 = k / 64 by omega, State.respondStatus_B, appendByte_B]
    exact appendByte_absorbed_B h hk hi (by omega)

/-- The byte that fills the block. -/
theorem step_push_full {k : Nat} (h : s.Absorbed m after k) (hk : k < m.length)
    (hm : m.length < 2 ^ 61) (hfull : k % 64 = 63) :
    ∃ t, step s = .next t ∧ t.PH = .wload ∧ t.T = 0 ∧ t.PADST = .none ∧ t.N = 0 ∧
      t.LEN = BitVec.ofNat 64 (8 * (k + 1)) ∧ t.B = block m (k / 64) ∧
      t.pending = hostEvents (pushes (m.drop (k + 1)) ++ .final :: after) := by
  have h63 : s.N = 63#6 := BitVec.eq_of_toNat_eq (h.count.trans hfull)
  refine ⟨_, step_pushb_absorbed h hk hm, by simp [h63], by simp [h63], by simp [h.padding], by simp [h63],
    by simp [h.length, length_add_byte], Vector.ext fun i hi => ?_, by simp⟩
  rw [State.respondStatus_B, appendByte_B]
  exact appendByte_absorbed_B h hk hi (by omega)

/-- One byte of the message taken in, with the block it may fill processed (R107). -/
theorem run_push {k : Nat} (h : s.Absorbed m after k) (hk : k < m.length)
    (hm : m.length < 2 ^ 61) :
    ∃ t, t.Absorbed m after (k + 1) ∧
      RunHandsOver (if k % 64 = 63 then 131 else 1) s t (if k % 64 = 63 then [block m (k / 64)] else []) := by
  split_ifs with hfull
  · obtain ⟨t, hstep, hp, hT, hq, hN, hlen, hB, hpending⟩ := step_push_full h hk hm hfull
    obtain ⟨u, hkeep, hrun⟩ := run_handOver hstep hp hT (by simp [hq]) (hostHolds_of_hostEvents hpending)
    have hqu : u.PADST = .none := hkeep.PADST.trans hq
    refine ⟨afterFeed u, ⟨by simp [hqu, feedGoesTo], by simp [hqu], ?_, hkeep.LEN.trans hlen, ?_,
      hkeep.host.1.trans hpending⟩, hB ▸ hrun⟩
    · rw [afterFeed_N, hkeep.N, hN, show (k + 1) % 64 = 0 by omega]
      rfl
    · omega
  · obtain ⟨t, hstep, ht⟩ := step_push_next h hk hm hfull
    refine ⟨t, ht, ?_⟩
    rw [← blocksHandedOver_elsewhere (s := t) (by simp [ht.phase])]
    exact .step hstep

/-- The first `k` bytes of the message, from the state INIT leaves. -/
theorem run_pushes (h : s.Absorbed m after 0) (hm : m.length < 2 ^ 61) {k : Nat}
    (hk : k ≤ m.length) :
    ∃ t, t.Absorbed m after k ∧ RunHandsOver (k + 130 * (k / 64)) s t ((List.range (k / 64)).map (block m)) := by
  induction k with
  | zero => exact ⟨s, h, .refl s⟩
  | succ k ih =>
    obtain ⟨t, ht, hrun⟩ := ih (by omega)
    obtain ⟨u, hu, hrun'⟩ := run_push ht (by omega) hm
    refine ⟨u, hu, ?_⟩
    have hall := hrun.trans hrun'
    split_ifs at hall with hfull
    · rw [show (k + 1) / 64 = k / 64 + 1 by omega, List.range_succ, List.map_append]
      rwa [show k + 130 * (k / 64) + 131 = k + 1 + 130 * (k / 64 + 1) by omega] at hall
    · rw [show (k + 1) / 64 = k / 64 by omega, ← List.append_nil ((List.range (k / 64)).map (block m))]
      rwa [Nat.add_right_comm] at hall

/-! ### Padding (R108, R109) -/

/-- After FINAL the buffer holds the last message bytes, and PADB has its operands. -/
theorem step_final_absorbed (h : s.Absorbed m after m.length) :
    ∃ t, step s = .next t ∧ t.PH = .pad ∧ t.T = 0 ∧ t.PADST = .first ∧ t.N = s.N ∧ t.LEN = s.LEN ∧ t.B = s.B ∧
      t.pending = hostEvents after := by
  have hpending : s.pending = .command 0x3000 :: hostEvents after := by
    rw [h.host, List.drop_length]
    rfl
  refine ⟨_, step_transfer (s.ready_iff.2 (.inr (.inl h.phase))) (by simp [h.phase]) hpending, ?_⟩
  rw [show decodeCommand 0x3000 = .ok .final from rfl, final_accepted (s := { s with pending := hostEvents _ }) h.phase]
  exact ⟨rfl, rfl, rfl, rfl, rfl, rfl, rfl⟩

/-- PADB makes the buffer the block that holds the last message bytes. -/
theorem padFirst_B_eq_block (hN : s.N.toNat = m.length % 64)
    (hlen : s.LEN = BitVec.ofNat 64 (8 * m.length))
    (hB : ∀ i (h : i < 64), i < m.length % 64 → s.B[i] = (block m (m.length / 64))[i]) :
    (padFirst s).B = block m (m.length / 64) := by
  refine Vector.ext fun i hi => ?_
  rw [padFirst_B_getElem, hN, hlen]
  split_ifs with hmessage
  · exact hB i hi hmessage
  all_goals
    rw [Reference.block_getElem_mark m i hi (by omega)]
    split_ifs
    rfl

/-- PADB makes the buffer the extra block. -/
theorem padMore_B_eq_block (hlen : s.LEN = BitVec.ofNat 64 (8 * m.length))
    (h56 : 56 ≤ m.length % 64) : (padMore s).B = block m (m.length / 64 + 1) := by
  refine Vector.ext fun i hi => ?_
  rw [padMore_B_getElem, hlen, Reference.block_getElem_extra m i hi h56]

theorem step_pad {s : State} (hp : s.PH = .pad) (hT : s.T = 0) (hh : s.hostHolds = true) :
    step s = execPadb 0 s := by
  rw [step_busy (s.busy_iff.2 (.inl hp)) hh, sequencerStep_eq, hp, hT]

/-- FINAL and the first padding block (R108, R109). -/
theorem run_first_padding (h : s.Absorbed m after m.length) :
    ∃ u, RunHandsOver 132 s (afterFeed u) [block m (m.length / 64)] ∧
      u.PADST = (if m.length % 64 ≤ 55 then .last else .more) ∧ u.LEN = BitVec.ofNat 64 (8 * m.length) ∧
      u.pending = hostEvents after := by
  obtain ⟨t, hfinal, hp, hT, hq, hN, hlen, hB, hpending⟩ := step_final_absorbed h
  have hcount : t.N.toNat = m.length % 64 := by rw [hN, h.count]
  have hlen' := hlen.trans h.length
  have hpadst : (padDone (padFirst t)).PADST = if m.length % 64 ≤ 55 then .last else .more := by simp [hcount]
  have hhost : (padDone (padFirst t)).pending = hostEvents after := by simp [hpending]
  have hpad : step t = .next (padDone (padFirst t)) := by
    rw [step_pad hp hT (hostHolds_of_hostEvents hpending), execPadb_first hq]
  obtain ⟨u, hkeep, hrun⟩ := run_handOver hpad rfl rfl (by rw [hpadst]; split_ifs <;> decide)
    (hostHolds_of_hostEvents hhost)
  refine ⟨u, ?_, hkeep.PADST.trans hpadst, ?_, hkeep.host.1.trans hhost⟩
  · have hall := (RunHandsOver.step hfinal).trans hrun
    rw [blocksHandedOver_elsewhere (by simp [hp]), padDone_B,
      padFirst_B_eq_block hcount hlen' (by rw [hB]; exact h.bytes)] at hall
    exact hall
  · rw [hkeep.LEN, padDone_LEN, padFirst_LEN, hlen']

/-- FINAL and all that follows where the length fits behind the message. -/
theorem run_final_one (h : s.Absorbed m after m.length) (h55 : m.length % 64 ≤ 55) :
    ∃ t, t.PH = .done ∧ t.pending = hostEvents after ∧ RunHandsOver 132 s t [block m (m.length / 64)] := by
  obtain ⟨u, hrun, hq, -, hpending⟩ := run_first_padding h
  exact ⟨afterFeed u, by rw [afterFeed_PH, hq, if_pos h55]; rfl, hpending, hrun⟩

/-- FINAL and all that follows where the length needs the extra block. -/
theorem run_final_two (h : s.Absorbed m after m.length) (h56 : 56 ≤ m.length % 64) :
    ∃ t, t.PH = .done ∧ t.pending = hostEvents after ∧
      RunHandsOver 263 s t [block m (m.length / 64), block m (m.length / 64 + 1)] := by
  obtain ⟨u, hrun, hq, hlen, hpending⟩ := run_first_padding h
  rw [if_neg (by omega)] at hq
  have hmore : (afterFeed u).PADST = .more := by simp [hq]
  have hpad : step (afterFeed u) = .next (padDone (padMore (afterFeed u))) := by
    rw [step_pad (s := afterFeed u) (by rw [afterFeed_PH, hq]; rfl) rfl (hostHolds_of_hostEvents hpending),
      execPadb_more hmore]
  have hhost : (padDone (padMore (afterFeed u))).pending = hostEvents after := by simp [hpending]
  obtain ⟨v, hkeep, hrun'⟩ := run_handOver hpad rfl rfl (by simp) (hostHolds_of_hostEvents hhost)
  rw [padDone_B, padMore_B_eq_block (s := afterFeed u) hlen h56] at hrun'
  have hlast : v.PADST = .last := hkeep.PADST
  exact ⟨afterFeed v, by rw [afterFeed_PH, hlast]; rfl, hkeep.host.1.trans hhost, hrun.trans hrun'⟩

/-- The whole message, from the state INIT leaves to DONE: the pushes hand over the blocks the message fills, FINAL the
one or two blocks of the padding. -/
theorem run_message (h : s.Absorbed m after 0) (hm : m.length < 2 ^ 61) :
    ∃ t, t.PH = .done ∧ t.pending = hostEvents after ∧
      RunHandsOver (m.length + 1 + sequencerSteps m.length) s t (blocks m) := by
  obtain ⟨t, ht, hrun⟩ := run_pushes h hm (Nat.le_refl _)
  rw [blocks, sequencerSteps, Reference.blockCount_eq]
  rcases Nat.lt_or_ge (m.length % 64) 56 with h55 | h56
  · obtain ⟨u, hdone, hhost, hrun'⟩ := run_final_one ht (by omega)
    rw [if_neg (by omega), if_pos (by omega), List.range_succ, List.map_append,
      show m.length + 1 + (130 * (m.length / 64 + 1) + 1) = m.length + 130 * (m.length / 64) + 132 by omega]
    exact ⟨u, hdone, hhost, hrun.trans hrun'⟩
  · obtain ⟨u, hdone, hhost, hrun'⟩ := run_final_two ht h56
    rw [if_pos h56, if_neg (by omega), List.range_succ, List.range_succ, List.append_assoc, List.map_append,
      show m.length + 1 + (130 * (m.length / 64 + 1 + 1) + 2) = m.length + 130 * (m.length / 64) + 263 by omega]
    exact ⟨u, hdone, hhost, hrun.trans hrun'⟩

end

/-- Settles O44, by `run_message` from the state INIT leaves, which has taken in no byte. -/
theorem pushedMessageIsHandedOverInPaddedBlocks : Obligations.PushedMessageIsHandedOverInPaddedBlocks := by
  intro s m hp hN hlen hq hm hpending
  have hstart : s.Absorbed m [] 0 :=
    ⟨hp, hq, by rw [hN]; rfl, hlen, fun i _ hi => absurd hi (Nat.not_lt_zero i), hpending⟩
  obtain ⟨t, hdone, -, hrun, hblocks⟩ := run_message hstart hm
  exact ⟨hblocks, t, hrun, hdone⟩

end Sys2Proof.Machine
end

section
/-! WLD and WEX, each as one instruction (42_scheduler.md R121, R122). -/

namespace Sys2Proof.Machine

/-! ### The selection words (R66) -/

/-- A lower field set in a word by OR. -/
theorem append_zero_or_zeroExtend {m n : Nat} (x : BitVec m) (y : BitVec n) :
    (x ++ 0#n) ||| y.zeroExtend (m + n) = x ++ y := by
  apply BitVec.eq_of_getLsbD_eq
  intro i hi
  rw [BitVec.getLsbD_or, BitVec.getLsbD_append, BitVec.getLsbD_append]
  by_cases hlow : i < n
  · simp [hlow, hi]
  · simp [hlow, BitVec.getLsbD_of_ge y i (Nat.not_lt.1 hlow)]

theorem decodeMicroOp_wld (t : BitVec 6) : decodeMicroOp (0x0C0 ||| t.zeroExtend 10) = .ok (.wld t) := by
  rw [show (0x0C0 : BitVec 10) = 3#4 ++ 0#6 from rfl, append_zero_or_zeroExtend 3#4 t]
  exact decode_encode (.wld t)

theorem decodeMicroOp_wex (t : BitVec 6) : decodeMicroOp (0x100 ||| t.zeroExtend 10) = .ok (.wex t) := by
  rw [show (0x100 : BitVec 10) = 4#4 ++ 0#6 from rfl, append_zero_or_zeroExtend 4#4 t]
  exact decode_encode (.wex t)

/-! ### The words written -/

theorem writeW_getElem_self (s : State) (t : BitVec 6) (v : Word) : (writeW s t v).W[t.toNat]'t.isLt = v :=
  Vector.getElem_set_self t.isLt

theorem writeW_getElem_of_ne (s : State) {t : BitVec 6} (v : Word) {k : Fin 64} (h : k.val ≠ t.toNat) :
    (writeW s t v).W[k] = s.W[k] :=
  Vector.getElem_set_ne t.isLt k.isLt h.symm

/-- Big-endian, by number: the first byte read is the most significant (20_memory.md R42). -/
theorem memRead_four_toNat (b : Vector Byte 64) (a : Nat) (h : a + 4 ≤ 64) :
    (memRead b a 4 h).toNat =
      b[a].toNat * 2 ^ 24 + b[a + 1].toNat * 2 ^ 16 + b[a + 2].toNat * 2 ^ 8 + b[a + 3].toNat := by
  rw [memRead_succ_toNat, memRead_succ_toNat, memRead_succ_toNat, memRead_succ_toNat, memRead]
  simp only [Nat.add_zero, BitVec.toNat_ofNat]
  omega

/-- The sum of the recurrence is reduced once (40_word_functions.md R80). -/
theorem scheduleWord_toNat (w16 w15 w7 w2 : Word) :
    (scheduleWord w16 w15 w7 w2).toNat =
      (w16.toNat + (ssig0 w15).toNat + w7.toNat + (ssig1 w2).toNat) % 2 ^ 32 := by
  simp only [scheduleWord, BitVec.toNat_add, Nat.mod_add_mod]

/-- Settles O23: `afterWld` is the next state, and its word is `memRead_four_toNat`. -/
theorem wldLoadsABigEndianWord : Obligations.WldLoadsABigEndianWord := by
  intro t s h
  refine ⟨decodeMicroOp_wld t, afterWld s t h, execWld_eq h, ?word, fun k => writeW_getElem_of_ne s _, ?last, ?next,
    ?frame⟩
  case word => exact (congrArg BitVec.toNat (writeW_getElem_self s t _)).trans (memRead_four_toNat s.B _ (by omega))
  case last => exact fun hlast => ⟨if_pos hlast, if_pos hlast⟩
  case next => exact fun hnext => ⟨if_neg hnext, if_neg hnext⟩
  case frame => simp [State.sameHost]

/-- Settles O24: `afterWex` is the next state, and its word is `scheduleWord_toNat`. -/
theorem wexComputesAScheduleWord : Obligations.WexComputesAScheduleWord := by
  intro t s h
  refine ⟨decodeMicroOp_wex t, afterWex s t h, execWex_eq h, ?word, fun k => writeW_getElem_of_ne s _, ?last, ?next,
    ?frame⟩
  case word => exact (congrArg BitVec.toNat (writeW_getElem_self s t _)).trans (scheduleWord_toNat _ _ _ _)
  case last => exact fun hlast => ⟨if_pos hlast, if_pos hlast⟩
  case next => exact fun hnext => ⟨if_neg hnext, if_neg hnext⟩
  case frame => simp [State.sameHost]

end Sys2Proof.Machine
end

section
/-! The 64 steps of the scheduler compute `expand` of the block (42_scheduler.md R120, R123). The state after each of
them is written down (`scheduledTo`), and one step leads from each to the next. -/

namespace Sys2Proof.Machine

open Reference (Block expand expand_of_lt expand_of_ge blockWord)

/-! ### The words of the schedule (R120) -/

/-- What WLD reads is a word of the block. -/
theorem memRead_eq_blockWord (b : Block) (n : Nat) (h : n < 16) :
    memRead b (4 * n) 4 (by omega) = blockWord b ⟨n, h⟩ :=
  memRead_four b (4 * n) (by omega)

/-- Above a correct schedule WEX computes the next word of it. -/
theorem wexWord_eq_expand {s : State} {t : BitVec 6} {b : Block} (h : 16 ≤ t.toNat)
    (hW : ∀ i : Fin 64, i.val < t.toNat → s.W[i] = (expand b)[i]) : wexWord s t h = (expand b)[t.toNat]'t.isLt := by
  rw [expand_of_ge b t.toNat h t.isLt]
  exact wexWord_congr (t := { s with W := expand b }) h hW

/-- The schedule memory with its first `k` words overwritten by those of `expand(b)`. -/
def firstWords (b : Block) (w : Vector Word 64) (k : Nat) : Vector Word 64 :=
  Vector.ofFn fun i => if i.val < k then (expand b)[i] else w[i]

theorem firstWords_getElem (b : Block) (w : Vector Word 64) (k i : Nat) (hi : i < 64) :
    (firstWords b w k)[i] = if i < k then (expand b)[i] else w[i] := by
  simp [firstWords]

theorem firstWords_zero (b : Block) (w : Vector Word 64) : firstWords b w 0 = w := by
  ext i hi
  rw [firstWords_getElem, if_neg i.not_lt_zero]

theorem firstWords_all (b : Block) (w : Vector Word 64) : firstWords b w 64 = expand b := by
  ext i hi
  rw [firstWords_getElem, if_pos hi]

theorem firstWords_set (b : Block) (w : Vector Word 64) {k : Nat} (hk : k < 64) :
    (firstWords b w k).set k (expand b)[k] = firstWords b w (k + 1) := by
  ext i hi
  rw [Vector.getElem_set, firstWords_getElem, firstWords_getElem]
  grind

theorem writeW_firstWords (s : State) {k : Nat} (hk : k < 64) :
    writeW { s with W := firstWords s.B s.W k } (blockIndex k) (expand s.B)[k] =
      { s with W := firstWords s.B s.W (k + 1) } := by
  rw [← firstWords_set s.B s.W hk]
  simp only [writeW, index64_val, blockIndex_toNat_of_lt hk]

theorem setSeq_setSeq (s : State) (p q : Phase) (t u : BitVec 6) : (s.setSeq p t).setSeq q u = s.setSeq q u := rfl

theorem writeW_setSeq (s : State) (p : Phase) (t i : BitVec 6) (v : Word) :
    writeW (s.setSeq p t) i v = (writeW s i v).setSeq p t := rfl

/-! ### The state after each step -/

/-- `s` at the entry of WLOAD, `k` steps on: the first `k` schedule words are in, and only the sequencer counter has
moved besides. -/
def scheduledTo (s : State) (k : Nat) : State :=
  { s with W := firstWords s.B s.W k }.setSeq (blockPhase k) (blockIndex k)

section
variable (s : State)

theorem scheduledTo_B (k : Nat) : (scheduledTo s k).B = s.B := State.setSeq_B _ _ _

theorem scheduledTo_PH (k : Nat) : (scheduledTo s k).PH = blockPhase k := State.setSeq_PH _ _ _

theorem scheduledTo_T (k : Nat) : (scheduledTo s k).T = blockIndex k := State.setSeq_T _ _ _

theorem scheduledTo_T_toNat {k : Nat} (hk : k < 64) : (scheduledTo s k).T.toNat = k := by
  rw [scheduledTo_T, blockIndex_toNat_of_lt hk]

theorem scheduledTo_W_getElem {k : Nat} (i : Fin 64) (hi : i.val < k) : (scheduledTo s k).W[i] = (expand s.B)[i] := by
  rw [scheduledTo, State.setSeq_W, Fin.getElem_fin, firstWords_getElem, if_pos hi, Fin.getElem_fin]

theorem scheduledTo_hostHolds (k : Nat) : (scheduledTo s k).hostHolds = s.hostHolds := by
  rw [State.hostHolds, State.hostHolds, scheduledTo, State.setSeq_pending]

theorem scheduledTo_zero (hp : s.PH = .wload) (hT : s.T = 0) : scheduledTo s 0 = s := by
  rw [scheduledTo, firstWords_zero, show blockPhase 0 = s.PH from hp.symm, show blockIndex 0 = s.T from hT.symm]
  rfl

theorem scheduledTo_all : scheduledTo s 64 = { s with W := expand s.B, PH := .rload, T := 0 } := by
  rw [scheduledTo, firstWords_all]
  rfl

/-! ### One step -/

/-- Writing the next word of `expand(B)` and moving the counter on leads from each state to the next. -/
theorem writeW_scheduledTo {k : Nat} (hk : k < 64) {v : Word} {p : Phase} {t : BitVec 6} (hv : v = (expand s.B)[k])
    (hat : ((writeW (scheduledTo s k) (scheduledTo s k).T v).setSeq p t).AtBlockStep (k + 1)) :
    (writeW (scheduledTo s k) (scheduledTo s k).T v).setSeq p t = scheduledTo s (k + 1) := by
  obtain ⟨hp, ht⟩ := hat
  rw [State.setSeq_PH] at hp
  rw [State.setSeq_T] at ht
  rw [hp, ht, hv, scheduledTo_T, scheduledTo, writeW_setSeq, setSeq_setSeq, writeW_firstWords s hk, scheduledTo]

theorem execWld_scheduledTo {k : Nat} (hk : k < 16) :
    execWld (scheduledTo s k).T (scheduledTo s k) = .next (scheduledTo s (k + 1)) := by
  have hi : (scheduledTo s k).T.toNat = k := scheduledTo_T_toNat s (by omega)
  have hword : memRead (scheduledTo s k).B (4 * (scheduledTo s k).T.toNat) 4 (by omega) = (expand s.B)[k] := by
    simp only [hi, scheduledTo_B, memRead_eq_blockWord _ _ hk, expand_of_lt _ _ hk]
  rw [execWld_eq (by omega)]
  exact congrArg _ (writeW_scheduledTo s (by omega) hword (afterWld_atBlockStep hk (scheduledTo_T s k) (by omega)))

theorem execWex_scheduledTo {k : Nat} (hx : 16 ≤ k) (hk : k < 64) :
    execWex (scheduledTo s k).T (scheduledTo s k) = .next (scheduledTo s (k + 1)) := by
  have hi : (scheduledTo s k).T.toNat = k := scheduledTo_T_toNat s hk
  have hword : wexWord (scheduledTo s k) (scheduledTo s k).T (by omega) = (expand s.B)[k] := by
    rw [wexWord_eq_expand (by omega) fun i hlt => scheduledTo_W_getElem s i (by omega)]
    simp only [hi]
  rw [execWex_eq (by omega)]
  exact congrArg _ (writeW_scheduledTo s hk hword (afterWex_atBlockStep ⟨hx, hk⟩ (scheduledTo_T s k) (by omega)))

theorem sequencerStep_scheduledTo {k : Nat} (hk : k < 64) :
    sequencerStep (scheduledTo s k) = .next (scheduledTo s (k + 1)) := by
  rw [sequencerStep_eq, scheduledTo_PH]
  rcases Nat.lt_or_ge k 16 with hw | hx
  · rw [show blockPhase k = .wload from if_pos hw]
    exact execWld_scheduledTo s hw
  · rw [show blockPhase k = .wexp by rw [blockPhase, if_neg (by omega), if_pos hk]]
    exact execWex_scheduledTo s hx hk

/-! ### The run (R123) -/

theorem run_scheduledTo (hp : s.PH = .wload) (hT : s.T = 0) (hh : s.hostHolds = true) {k : Nat} (hk : k ≤ 64) :
    run k s = .next (scheduledTo s k) := by
  induction k with
  | zero => rw [scheduledTo_zero s hp hT, run_zero]
  | succ k ih =>
    have hbusy : (scheduledTo s k).busy = true := State.AtBlockStep.busy ⟨scheduledTo_PH s k, scheduledTo_T s k⟩
    have hstep := (step_busy hbusy (by rwa [scheduledTo_hostHolds])).trans (sequencerStep_scheduledTo s hk)
    rw [run_add k 1 (ih (by omega)), run_succ 0 hstep, run_zero]

end

/-- Settles O45: the state after the last of the 64 steps holds all of `expand(B)`. -/
theorem scheduleRunComputesExpand : Obligations.ScheduleRunComputesExpand := by
  intro s hp hT hh
  rw [run_scheduledTo s hp hT hh (Nat.le_refl 64), scheduledTo_all]

end Sys2Proof.Machine
end

section
/-! RLD, RND and FEED, each as one instruction (43_compressor.md R132 to R134). -/

namespace Sys2Proof.Machine

theorem decodeMicroOp_rnd (t : BitVec 6) : decodeMicroOp (0x180 ||| t.zeroExtend 10) = .ok (.rnd t) := by
  rw [show (0x180 : BitVec 10) = 6#4 ++ 0#6 from rfl, append_zero_or_zeroExtend 6#4 t]
  exact decode_encode (.rnd t)

/-- The sum FEED writes, by number (40_word_functions.md R80). -/
theorem afterFeed_H_toNat (s : State) (i : Fin 8) :
    (afterFeed s).H[i].toNat = (s.H[i].toNat + s.r[i].toNat) % 2 ^ 32 := by
  rw [afterFeed_H, Fin.getElem_fin, Vector.getElem_ofFn, BitVec.toNat_add]

/-- Settles O25: `afterRld` is the next state. -/
theorem rldCopiesTheDigest : Obligations.RldCopiesTheDigest := by
  refine ⟨rfl, fun s => ⟨afterRld s, execRld_eq s, fun i => by rw [afterRld_r], ?frame⟩⟩
  case frame => simp [State.sameHost]

/-- Settles O26: `afterRnd` is the next state, and its registers are those `round` lists. -/
theorem rndRunsOneRound : Obligations.RndRunsOneRound := by
  rintro t s _ _ rfl rfl
  refine ⟨decodeMicroOp_rnd t, afterRnd s t, execRnd_eq t s, rfl, rfl, rfl, rfl, rfl, rfl, rfl, rfl, ?last, ?next,
    ?frame⟩
  case last => exact fun hlast => ⟨if_pos hlast, if_pos hlast⟩
  case next => exact fun hnext => ⟨if_neg hnext, if_neg hnext⟩
  case frame => simp [State.sameHost]

/-- Settles O27: `afterFeed` is the next state; its phase is `feedGoesTo`, case by case. -/
theorem feedAddsIntoTheDigest : Obligations.FeedAddsIntoTheDigest := by
  refine ⟨rfl, fun s hq => ⟨afterFeed s, execFeed_eq hq, afterFeed_H_toNat s, ?none, ?more, ?last, ?frame⟩⟩
  case none | more | last => intro h; simp [h, feedGoesTo]
  case frame => simp [State.sameHost]

end Sys2Proof.Machine
end

section
/-! The 66 steps from RLOAD compute `compress` of the schedule and the running digest, and the 130 steps of a block
`compress` of its `expand` (43_compressor.md R131, R135). The state after each round is written down (`roundedTo`). -/

namespace Sys2Proof.Machine

open Reference (compress rounds rounds_succ)

/-! ### The first and the last step -/

theorem step_rload {s : State} (hp : s.PH = .rload) (hT : s.T = 0) (hh : s.hostHolds = true) :
    step s = .next (afterRld s) := by
  have hbusy : s.busy = true := s.busy_iff.2 (by simp [hp])
  rw [step_busy hbusy hh, sequencerStep_eq, hp, hT, execRld_eq]

theorem step_feed {s : State} (hp : s.PH = .feed) (hT : s.T = 0) (hq : s.PADST ≠ .first)
    (hh : s.hostHolds = true) : step s = .next (afterFeed s) := by
  have hbusy : s.busy = true := s.busy_iff.2 (by simp [hp])
  rw [step_busy hbusy hh, sequencerStep_eq, hp, hT, execFeed_eq hq]

/-! ### The state after each round -/

theorem index64_round {n : Nat} (hn : n < 64) : index64 (blockIndex (65 + n)) = ⟨n, hn⟩ := by
  apply Fin.ext
  rw [index64_val, blockIndex_toNat_of_ge (by omega) (by omega), Nat.add_sub_cancel_left]

/-- `s` at the entry of RLOAD, after RLD and `n` rounds: the working registers are those of R131, and only the sequencer
counter has moved besides. -/
def roundedTo (s : State) (n : Nat) (hn : n ≤ 64) : State :=
  { s with r := rounds s.W s.H n hn }.setSeq (blockPhase (65 + n)) (blockIndex (65 + n))

section
variable (s : State)

theorem roundedTo_atBlockStep {n : Nat} (hn : n ≤ 64) : (roundedTo s n hn).AtBlockStep (65 + n) :=
  ⟨State.setSeq_PH _ _ _, State.setSeq_T _ _ _⟩

/-- The context is all but `r`, `W` and the sequencer counter. -/
theorem keepsContext_writes (r : Vector Word 8) (w : Vector Word 64) (p : Phase) (t : BitVec 6) :
    s.KeepsContext ({ s with r := r, W := w }.setSeq p t) :=
  ⟨rfl, rfl, rfl, rfl, rfl, rfl, rfl, rfl, rfl⟩

theorem keepsContext_scheduledTo (k : Nat) : s.KeepsContext (scheduledTo s k) := keepsContext_writes s s.r _ _ _

theorem keepsContext_roundedTo {n : Nat} (hn : n ≤ 64) : s.KeepsContext (roundedTo s n hn) :=
  keepsContext_writes s _ s.W _ _

theorem roundedTo_W {n : Nat} (hn : n ≤ 64) : (roundedTo s n hn).W = s.W := State.setSeq_W _ _ _

/-- RLD leads to the registers of no round. -/
theorem afterRld_eq_roundedTo : afterRld s = roundedTo s 0 (Nat.zero_le 64) := rfl

/-- RND leads from each state to the next: its round is the next one of R131. -/
theorem afterRnd_roundedTo {n : Nat} (hn : n < 64) :
    afterRnd (roundedTo s n hn.le) (roundedTo s n hn.le).T = roundedTo s (n + 1) hn := by
  obtain ⟨-, hT⟩ := roundedTo_atBlockStep s hn.le
  obtain ⟨hp', hT'⟩ := afterRnd_atBlockStep ⟨by omega, by omega⟩ hT
  rw [afterRnd_PH] at hp'
  rw [afterRnd_T] at hT'
  rw [afterRnd, hp', hT', hT]
  have hround : round (roundedTo s n hn.le).r (Config.K ⟨n, hn⟩) (roundedTo s n hn.le).W[n] =
      rounds s.W s.H (n + 1) hn := (rounds_succ s.W s.H n hn).symm
  simp only [index64_round hn, Fin.getElem_fin, hround]
  rfl

/-- FEED after the last round computes `compress` (R131, R134). -/
theorem afterFeed_roundedTo_H : (afterFeed (roundedTo s 64 le_rfl)).H = compress s.W s.H := rfl

/-! ### The run (R135) -/

theorem step_roundedTo {n : Nat} (hn : n < 64) (hh : s.hostHolds = true) :
    step (roundedTo s n hn.le) = .next (roundedTo s (n + 1) hn) := by
  have hat := roundedTo_atBlockStep s hn.le
  have hround : (roundedTo s n hn.le).PH = .round := by
    obtain ⟨hp, -⟩ := hat
    rw [hp, blockPhase, if_neg (by omega), if_neg (by omega), if_neg (by omega), if_pos (by omega)]
  rw [step_busy hat.busy ((keepsContext_roundedTo s hn.le).hostHolds hh), sequencerStep_eq, hround, execRnd_eq,
    afterRnd_roundedTo s hn]

theorem run_roundedTo (hp : s.PH = .rload) (hT : s.T = 0) (hh : s.hostHolds = true) {n : Nat} (hn : n ≤ 64) :
    run (1 + n) s = .next (roundedTo s n hn) := by
  induction n with
  | zero => rw [run_succ 0 (step_rload hp hT hh), run_zero, afterRld_eq_roundedTo]
  | succ n ih =>
    rw [← Nat.add_assoc, run_add (1 + n) 1 (ih (by omega)), run_succ 0 (step_roundedTo s hn hh), run_zero]

/-- RLD, 64 rounds and FEED. -/
theorem run_compress (hp : s.PH = .rload) (hT : s.T = 0) (hq : s.PADST ≠ .first) (hh : s.hostHolds = true) :
    run 66 s = .next (afterFeed (roundedTo s 64 le_rfl)) := by
  obtain ⟨hp', hT'⟩ := roundedTo_atBlockStep s le_rfl
  have hkeep := keepsContext_roundedTo s le_rfl
  have hfeed := step_feed hp' hT' (by rwa [hkeep.PADST]) (hkeep.hostHolds hh)
  rw [run_add 65 1 (run_roundedTo s hp hT hh le_rfl), run_succ 0 hfeed, run_zero]

end

/-- Settles O46: `run_compress` from RLOAD, and from WLOAD behind the 64 steps of the scheduler (O45). -/
theorem blockRunComputesCompress : Obligations.BlockRunComputesCompress := by
  refine fun s hq hh hT => ⟨fun hp => ?_, fun hp => ?_⟩
  · have hkeep := keepsContext_roundedTo s le_rfl
    exact ⟨_, run_compress s hp hT hq hh, afterFeed_roundedTo_H s, roundedTo_W s le_rfl, hkeep.B⟩
  · have hschedule := run_scheduledTo s hp hT hh le_rfl
    have hkeep := keepsContext_scheduledTo s 64
    have hcompress := run_compress (scheduledTo s 64) (scheduledTo_PH s 64) (scheduledTo_T s 64)
      (by rwa [hkeep.PADST]) (hkeep.hostHolds hh)
    refine ⟨_, by rw [run_add 64 66 hschedule, hcompress], ?digest, ?frame⟩
    case digest => rw [afterFeed_roundedTo_H, scheduledTo_all]
    case frame =>
      obtain ⟨-, hB, hN, hLEN, -, hECODE, hresponses, hhost⟩ := hkeep.trans (keepsContext_roundedTo _ le_rfl)
      simpa only [afterFeed_B, afterFeed_N, afterFeed_LEN, afterFeed_ECODE, afterFeed_responses, State.sameHost,
        afterFeed_pending, afterFeed_resets] using And.intro hB ⟨hN, hLEN, hECODE, hresponses, hhost⟩

end Sys2Proof.Machine
end

section
/-! What a step runs: the transferred command, the selected micro-operation, or nothing (44_driver_and_commands.md R150,
R156). -/

namespace Sys2Proof.Machine

theorem sequencerStep_ready {s : State} (hr : s.ready = true) : sequencerStep s = .next s := by
  rw [sequencerStep_eq]
  rcases s.ready_iff.1 hr with h | h | h | h <;> rw [h]

theorem sequencerStep_of_selection {s : State} {i : Instr} (h : decodeMicroOp s.selection = .ok i) :
    sequencerStep s = exec i s := by
  rw [sequencerStep, h]

/-- Settles O9. -/
theorem stepRunsTheTransferredCommand : Obligations.StepRunsTheTransferredCommand := by
  intro s c rest i hr hp hd
  rw [step_command hp, if_pos hr, transfer, hd]

/-- Settles O10: the selection word does not depend on the host's events. -/
theorem stepRunsTheSelectedMicroOperation : Obligations.StepRunsTheSelectedMicroOperation := by
  refine fun s i hsel hb => ⟨fun hh => ?holds, fun rest hp => ?waits⟩
  case holds => rw [step_busy hb hh, sequencerStep_of_selection hsel]
  case waits => rw [step_idle hp, sequencerStep_of_selection (s := { s with pending := rest }) hsel]

/-- Settles O12. -/
theorem aReadyEngineWaits : Obligations.AReadyEngineWaits := by
  refine fun s hr => ⟨fun hp => ?silent, fun rest hp => ?waits⟩
  case silent => rw [step_nil hp, sequencerStep_ready hr]
  case waits => rw [step_idle hp, sequencerStep_ready (s := { s with pending := rest }) hr]

/-- Only a ready phase is left for FAULT (10_state.md R18). -/
theorem Phase.ready_of_goesTo_fault {p : Phase} (h : p.goesTo .fault = true) : p.ready = true := by
  cases p with
  | idle | absorb | done | fault => rfl
  | pad | wload | wexp | rload | round | feed => cases h

/-- Settles O13: the step is the sequencer's, which leaves the host's side alone and enters FAULT from no busy phase. -/
theorem aCommandIsHeldWhileBusy : Obligations.ACommandIsHeldWhileBusy := by
  intro s t c rest hb hp h
  rw [step_busy hb (hostHolds_command hp)] at h
  obtain ⟨⟨hpending, -⟩, hresponses, -, hecode⟩ := sequencerStep_frame h
  refine ⟨hpending, hresponses, fun hf => ?_, hecode⟩
  have hr : s.ready = true := Phase.ready_of_goesTo_fault (hf ▸ sequencerStep_goesTo h)
  exact absurd hr (by simp [s.busy_eq_true_iff.1 hb])

end Sys2Proof.Machine
end

section
/-! The commands of the driver, each as one instruction (44_driver_and_commands.md R150 to R155). -/

namespace Sys2Proof.Machine

/-! ### In FAULT and while busy (R150) -/

/-- A held command has no transfer (log 4). -/
theorem exec_command_busy {i : Instr} (hi : i.isCommand = true) {s : State} (hb : s.busy = true) :
    exec i s = .next s := by
  cases i with
  | init | pushb _ | final | rdw _ | rdb _ => exact congrArg Host.Outcome.next (onCommand_busy hb _)
  | stat | srst => exact congrArg Host.Outcome.next (onTransfer_busy hb _)
  | padb _ | wld _ | wex _ | rld _ | rnd _ | feed _ => cases hi

/-- Settles O14. -/
theorem commandsAreDiscardedInFaultAndHeldWhileBusy : Obligations.CommandsAreDiscardedInFaultAndHeldWhileBusy :=
  fun _ _ hi => ⟨fun hf hs => exec_command_fault hi hs hf, exec_command_busy hi⟩

/-! ### INIT (R151) -/

/-- Settles O15: the transfer's effect, field by field. -/
theorem initOpensAFreshContext : Obligations.InitOpensAFreshContext := by
  refine ⟨rfl, fun s hp => ?_⟩
  obtain ⟨hr, hf⟩ : s.ready = true ∧ s.PH ≠ .fault := by
    rcases hp with hp | hp | hp <;> simp [State.ready, Phase.ready, hp]
  refine ⟨_, exec_command rfl hr hf, fun i => ?iv, rfl, rfl, rfl, rfl, rfl, rfl, fun he => ?status, rfl, rfl, rfl, rfl,
    rfl, rfl⟩
  case iv => exact Vector.getElem_ofFn i.isLt
  case status =>
    apply BitVec.eq_of_toNat_eq
    rw [status_toNat]
    change 1 + 16 * s.ECODE.code.toNat + 0 = 1
    rw [he]
    rfl

/-! ### RDW and RDB (R154, R155) -/

/-- What a digest read does to a ready engine outside FAULT: the response in DONE, the fault ESEQ elsewhere. -/
theorem exec_digestRead {i : Instr} (hi : i.isCommand = true) {s : State} {v : Word}
    (he : commandEffect s (.ok i) = if s.PH ≠ .done then s.raiseFault .eseq else s.respond v) :
    (s.PH = .done → exec i s = .next (s.respond v)) ∧
      (s.PH = .idle ∨ s.PH = .absorb → ∃ t, exec i s = .next t ∧ s.entersFault t .eseq) := by
  refine ⟨fun hp => ?_, fun hp => ?_⟩
  · rw [exec_command hi (s.ready_iff.2 (by simp [hp])) (by simp [hp]), he, if_neg (not_not.2 hp)]
  · obtain ⟨hr, hf, hd⟩ : s.ready = true ∧ s.PH ≠ .fault ∧ s.PH ≠ .done := by
      rcases hp with hp | hp <;> simp [State.ready, Phase.ready, hp]
    exact ⟨_, by rw [exec_command hi hr hf, he, if_pos hd], raiseFault_entersFault s .eseq⟩

/-- Settles O18. -/
theorem rdwReadsADigestWord : Obligations.RdwReadsADigestWord := fun i _ =>
  ⟨congrArg CodeWord.command (append_zero_or_zeroExtend 0b0100000000000#13 i).symm, exec_digestRead rfl rfl⟩

/-- A byte of the serialized digest by number (R161). -/
theorem serialize_getElem_toNat (d : Vector Word 8) (j : Nat) (h : j < 32) :
    (Reference.serialize d)[j].toNat = (d[j / 4]'(by omega)).toNat / 256 ^ (3 - j % 4) % 256 := by
  rw [Reference.serialize_getElem, show 24 - 8 * (j % 4) = 8 * (3 - j % 4) by omega, BitVec.extractLsb'_toNat,
    Nat.shiftRight_eq_div_pow, Nat.pow_mul]

/-- Settles O19: the byte read is a byte of `serialize(H)`, whose number `serialize_getElem_toNat` gives. -/
theorem rdbReadsADigestByte : Obligations.RdbReadsADigestByte := by
  intro j s
  obtain ⟨hdone, hfault⟩ := exec_digestRead (i := .rdb j) rfl (s := s) rfl
  refine ⟨congrArg CodeWord.command (append_zero_or_zeroExtend 0b01010000000#11 j).symm,
    fun hp => ⟨_, hdone hp, ?number, ?byte⟩, hfault⟩
  case byte => rw [digestByte_eq_serialize]
  case number =>
    rw [digestByte_eq_serialize, BitVec.toNat_setWidth_of_le (by decide)]
    exact serialize_getElem_toNat s.H j.toNat j.isLt

/-! ### STAT and SRST (R152, R153) -/

theorem exec_stat_ready {s : State} (hr : s.ready = true) : exec .stat s = .next s.respondStatus :=
  congrArg Host.Outcome.next (onTransfer_ready hr _)

theorem exec_srst_ready {s : State} (hr : s.ready = true) : exec .srst s = .next s.controlReset.respondStatus :=
  congrArg Host.Outcome.next (onTransfer_ready hr _)

/-- Settles O20. -/
theorem statReadsTheStatus : Obligations.StatReadsTheStatus := ⟨rfl, fun _ => exec_stat_ready⟩

theorem controlReset_status (s : State) : s.controlReset.status = 0x00000000 :=
  BitVec.eq_of_toNat_eq (status_toNat s.controlReset)

/-- Settles O21: SRST's own step, FAULT kept by every other command (R186), and O13 for SRST's word. -/
theorem srstResetsTheControlState : Obligations.SrstResetsTheControlState := by
  refine ⟨rfl, fun s hr => ?reset, fun i s t hi hs hf h => ?kept, fun s t rest hb hp h => ?held⟩
  case reset =>
    refine ⟨_, exec_srst_ready hr, ⟨rfl, rfl, rfl, rfl, rfl, rfl, rfl, rfl, rfl, rfl⟩, ?_, rfl, rfl⟩
    rw [State.respondStatus_responses, controlReset_status, State.controlReset_responses]
  case kept =>
    rw [exec_command_fault hi hs hf] at h
    cases h
    exact hf
  case held =>
    obtain ⟨hpending, hresponses, -⟩ := aCommandIsHeldWhileBusy s t _ rest hb hp h
    exact ⟨hpending, hresponses⟩

end Sys2Proof.Machine
end

section
/-! The busy periods, step by step: a block's 130 steps, and each of them behind a PADB
(44_driver_and_commands.md R165). -/

namespace Sys2Proof.Machine

/-- The first `n` steps of the run from `s` begin in the phases listed by `phases`. -/
def State.GoesThrough (s : State) (n : Nat) (phases : Nat → Phase) : Prop :=
  ∀ k, k < n → ∃ u, run k s = .next u ∧ u.PH = phases k

/-- The phase before step `k` of a padding block's 131 steps: PADB, then the block (R165). -/
def paddedPhase (k : Nat) : Phase := if k = 0 then .pad else blockPhase (k - 1)

/-- Where a block's 130 steps, run from the entry of WLOAD, stand before each of them, and where FEED leads. -/
theorem block_busyPeriod {s : State} (hp : s.PH = .wload) (hT : s.T = 0) (hq : s.PADST ≠ .first)
    (hh : s.hostHolds = true) :
    s.GoesThrough 130 blockPhase ∧ ∃ u, s.KeepsContext u ∧ run 130 s = .next (afterFeed u) := by
  refine ⟨fun k hk => ?_, ?_⟩
  · obtain ⟨u, ⟨hrun, -⟩, ⟨hphase, -⟩, -⟩ := run_atBlockStep ⟨hp, hT⟩ hh (show k ≤ 129 by omega)
    exact ⟨u, hrun, hphase⟩
  · obtain ⟨u, hkeep, hrun, -⟩ := run_block hp hT hq hh
    exact ⟨u, hkeep, hrun⟩

/-- The same behind a PADB, whose next state is `t`. -/
theorem padded_busyPeriod {s t : State} (hs : s.PH = .pad) (hstep : step s = .next t) (hp : t.PH = .wload)
    (hT : t.T = 0) (hq : t.PADST ≠ .first) (hh : t.hostHolds = true) :
    s.GoesThrough 131 paddedPhase ∧ ∃ u, t.KeepsContext u ∧ run 131 s = .next (afterFeed u) := by
  obtain ⟨hphases, u, hkeep, hrun⟩ := block_busyPeriod hp hT hq hh
  refine ⟨fun k hk => ?_, u, hkeep, by rw [run_succ 130 hstep, hrun]⟩
  cases k with
  | zero => exact ⟨s, rfl, hs⟩
  | succ k =>
    rw [run_succ k hstep]
    exact hphases k (by omega)

/-- The first padding block, up to the state FEED leaves. -/
theorem firstPadding_busyPeriod {s : State} (hp : s.PH = .pad) (hT : s.T = 0) (hq : s.PADST = .first)
    (hh : s.hostHolds = true) :
    s.GoesThrough 131 paddedPhase ∧
      ∃ u, run 131 s = .next (afterFeed u) ∧ u.PADST = (if s.N.toNat ≤ 55 then .last else .more) ∧
        (afterFeed u).hostHolds = true := by
  have hstep : step s = .next (padDone (padFirst s)) := by rw [step_pad hp hT hh, execPadb_first hq]
  have hpadst : (padDone (padFirst s)).PADST = if s.N.toNat ≤ 55 then .last else .more := by simp
  have hhost : (padDone (padFirst s)).hostHolds = true := by simpa [State.hostHolds] using hh
  obtain ⟨hphases, u, hkeep, hrun⟩ :=
    padded_busyPeriod hp hstep rfl rfl (by rw [hpadst]; split_ifs <;> decide) hhost
  exact ⟨hphases, u, hrun, hkeep.PADST.trans hpadst, hkeep.hostHolds hhost⟩

/-- The extra padding block. -/
theorem extraPadding_busyPeriod {s : State} (hp : s.PH = .pad) (hT : s.T = 0) (hq : s.PADST = .more)
    (hh : s.hostHolds = true) :
    s.GoesThrough 131 paddedPhase ∧ ∃ t, run 131 s = .next t ∧ t.PH = .done := by
  have hstep : step s = .next (padDone (padMore s)) := by rw [step_pad hp hT hh, execPadb_more hq]
  have hhost : (padDone (padMore s)).hostHolds = true := by simpa [State.hostHolds] using hh
  obtain ⟨hphases, u, hkeep, hrun⟩ := padded_busyPeriod hp hstep rfl rfl (by simp) hhost
  have hlast : u.PADST = .last := hkeep.PADST
  exact ⟨hphases, _, hrun, by rw [afterFeed_PH, hlast]; rfl⟩

/-- Settles O47: a full block by `block_busyPeriod`; FINAL by the first padding block, with the extra one behind it
where the length does not fit. -/
theorem busyPeriodsEndOnTime : Obligations.BusyPeriodsEndOnTime := by
  refine fun s hc hh => ⟨fun hp hT hq => ?full, fun hp hq hN => ?fits, fun hp hq hN => ?extra⟩
  case full =>
    obtain ⟨hphases, u, hkeep, hrun⟩ := block_busyPeriod hp hT (by simp [hq]) hh
    have hnone : u.PADST = .none := hkeep.PADST.trans hq
    exact ⟨⟨_, hrun, by rw [afterFeed_PH, hnone]; rfl⟩, hphases⟩
  case fits =>
    obtain ⟨hT, -⟩ := (State.consistent_padFirst hp hq).1 hc
    obtain ⟨hphases, u, hrun, hpadst, -⟩ := firstPadding_busyPeriod hp hT hq hh
    exact ⟨⟨_, hrun, by rw [afterFeed_PH, hpadst, if_pos hN]; rfl⟩, hphases⟩
  case extra =>
    obtain ⟨hT, -⟩ := (State.consistent_padFirst hp hq).1 hc
    obtain ⟨hphases, u, hrun, hpadst, hhost⟩ := firstPadding_busyPeriod hp hT hq hh
    rw [if_neg (by omega)] at hpadst
    obtain ⟨hphases', t, hrun', hdone⟩ := extraPadding_busyPeriod (s := afterFeed u)
      (by rw [afterFeed_PH, hpadst]; rfl) rfl (by simp [hpadst]) hhost
    refine ⟨⟨t, by rw [run_add 131 131 hrun, hrun'], hdone⟩, fun k hk => ?_⟩
    rcases Nat.lt_or_ge k 131 with hfirst | hsecond
    · rw [Nat.mod_eq_of_lt hfirst]
      exact hphases k hfirst
    · obtain ⟨j, rfl⟩ := Nat.exists_eq_add_of_le hsecond
      rw [Nat.add_mod_left, Nat.mod_eq_of_lt (by omega), run_add 131 j hrun]
      exact hphases' j (by omega)

end Sys2Proof.Machine
end

section
/-! Facts that hold along every run, and the part of the host's events still to come. -/

namespace Sys2Proof.Machine

open Assembler (hostEvents)

/-! ### Runs -/

/-- A run of two parts passes through the state between them. -/
theorem run_add_next {m n : Nat} {s t : State} (h : run (m + n) s = .next t) :
    ∃ u, run m s = .next u ∧ run n u = .next t := by
  induction m generalizing s with
  | zero => exact ⟨s, rfl, by rwa [Nat.zero_add] at h⟩
  | succ m ih =>
    rw [Nat.add_right_comm] at h
    obtain ⟨v, hstep, h⟩ := run_succ_next h
    obtain ⟨u, hrun, hrest⟩ := ih h
    exact ⟨u, by rw [run_succ m hstep, hrun], hrest⟩

/-- What every step keeps holds along every run. -/
theorem run_keeps {P : State → Prop} (hP : ∀ s t, P s → step s = .next t → P t) {n : Nat} {s t : State} (hs : P s)
    (h : run n s = .next t) : P t := by
  induction n generalizing s with
  | zero => cases h; exact hs
  | succ n ih =>
    obtain ⟨u, hstep, h⟩ := run_succ_next h
    exact ih (hP s u hs hstep) h

/-! ### The host's events -/

/-- A step takes at most the host's next event. -/
theorem step_pending {s t : State} (h : step s = .next t) : t.pending <:+ s.pending := by
  rcases step_next h with ⟨rest, hp, rfl⟩ | ⟨c, rest, hp, -, -, rfl⟩ | ⟨c, rest, hp, -, rfl⟩ | ⟨p, hp, hseq⟩
  · exact ⟨[.reset], hp.symm⟩
  · rw [commandEffect_pending, hp]
    exact List.suffix_cons _ _
  · rw [hp]
    split_ifs <;> exact List.suffix_cons _ _
  · obtain ⟨⟨hpending, -⟩, -⟩ := sequencerStep_frame hseq
    rw [hpending]
    rcases hp with ⟨rfl, -⟩ | hp
    · exact List.suffix_rfl
    · rw [hp]
      exact List.suffix_cons _ _

/-- All the host does from here on is to send words that satisfy `P`. -/
def State.HostSends (P : BitVec 16 → Prop) (s : State) : Prop := ∀ e ∈ s.pending, ∃ c, e = .command c ∧ P c

section
variable {P : BitVec 16 → Prop} {s t : State}

theorem State.HostSends.after_step (h : s.HostSends P) (hs : step s = .next t) : t.HostSends P :=
  fun e he => h e ((step_pending hs).subset he)

theorem State.HostSends.after_run (h : s.HostSends P) {n : Nat} (hs : run n s = .next t) : t.HostSends P :=
  run_keeps (fun _ _ => State.HostSends.after_step) h hs

theorem State.HostSends.head {e : HostEvent} {rest : List HostEvent} (h : s.HostSends P)
    (hp : s.pending = e :: rest) : ∃ c, e = .command c ∧ P c :=
  h e (by rw [hp]; exact List.mem_cons_self)

theorem State.HostSends.head_command {c : BitVec 16} {rest : List HostEvent} (h : s.HostSends P)
    (hp : s.pending = .command c :: rest) : P c := by
  obtain ⟨_, hc, hP⟩ := h.head hp
  cases hc
  exact hP

theorem State.HostSends.not_reset {rest : List HostEvent} (h : s.HostSends P) : s.pending ≠ .reset :: rest := by
  intro hp
  obtain ⟨c, hc, -⟩ := h.head hp
  cases hc

theorem State.HostSends.hostHolds (h : s.HostSends P) : s.hostHolds = true := by
  cases hp : s.pending with
  | nil => simp [State.hostHolds, hp]
  | cons e rest =>
    obtain ⟨c, rfl, -⟩ := h.head hp
    exact hostHolds_command hp

end

/-- The word neither opens a context nor resets the control state: it is not INIT and not SRST. -/
def KeepsContextOpen (c : BitVec 16) : Prop := c ≠ 0x1000 ∧ c ≠ 0xF000

theorem hostSends_hostEvents {s : State} {is : List Instr} (hp : s.pending = hostEvents is)
    (hi : Instr.init ∉ is) (hs : Instr.srst ∉ is) : s.HostSends KeepsContextOpen := by
  intro e he
  rw [hp, hostEvents, List.mem_map] at he
  obtain ⟨c, hc, rfl⟩ := he
  obtain ⟨i, hmem, hword⟩ := List.mem_filterMap.1 hc
  have hdecode := (commandWord?_eq_some_iff i c).1 hword
  refine ⟨c, rfl, fun h => hi ?_, fun h => hs ?_⟩
  · rw [(decodeCommand_init_iff c).2 h] at hdecode
    rwa [Except.ok.inj hdecode]
  · rw [(decodeCommand_srst_iff c).2 h] at hdecode
    rwa [Except.ok.inj hdecode]

/-! ### A fault stays -/

theorem step_fault_stays {s t : State} (hf : s.PH = .fault) (hs : s.HostSends KeepsContextOpen)
    (h : step s = .next t) : t.PH = .fault := by
  rcases step_next h with ⟨rest, hp, -⟩ | ⟨c, rest, -, -, hnf, -⟩ | ⟨c, rest, hp, -, rfl⟩ | ⟨p, -, hseq⟩
  · exact absurd hp hs.not_reset
  · exact absurd hf hnf
  · rw [if_neg (hs.head_command hp).2]
    exact hf
  · have hr : ({ s with pending := p } : State).ready = true := (State.ready_iff _).2 (by simp [hf])
    rw [sequencerStep_ready hr] at hseq
    cases hseq
    exact hf

/-- A run that does not end in FAULT was never in FAULT (60_exceptions.md R187). -/
theorem run_without_fault {s t : State} {n : Nat} (hs : s.HostSends KeepsContextOpen) (h : run n s = .next t)
    (ht : t.PH ≠ .fault) {k : Nat} (hk : k ≤ n) : ∃ u, run k s = .next u ∧ u.PH ≠ .fault := by
  obtain ⟨j, rfl⟩ := Nat.exists_eq_add_of_le hk
  obtain ⟨u, hrun, hrest⟩ := run_add_next h
  refine ⟨u, hrun, fun hf => ht ?_⟩
  obtain ⟨hstays, -⟩ := run_keeps (P := fun v => v.PH = .fault ∧ v.HostSends KeepsContextOpen)
    (fun _ _ ⟨hfault, hsends⟩ hstep => ⟨step_fault_stays hfault hsends hstep, hsends.after_step hstep⟩)
    ⟨hf, hs.after_run hrun⟩ hrest
  exact hstays

/-! ### One response for each word taken (30_encoding.md R69) -/

theorem commandEffect_one_response (s : State) (c : BitVec 16) :
    ∃ v, (commandEffect s (decodeCommand c)).responses = s.responses ++ [v] := by
  by_cases h : s.PH = .done → ∀ i j, decodeCommand c ≠ .ok (.rdw i) ∧ decodeCommand c ≠ .ok (.rdb j)
  · exact ⟨_, commandEffect_responses h⟩
  · push Not at h
    obtain ⟨hdone, i, j, hread⟩ := h
    by_cases hi : decodeCommand c = .ok (.rdw i)
    · rw [hi, commandEffect, if_neg (not_not.2 hdone)]
      exact ⟨_, rfl⟩
    · rw [hread hi, commandEffect, if_neg (not_not.2 hdone)]
      exact ⟨_, rfl⟩

/-- The words still to be taken and the responses given are together as many after a step as before. -/
theorem step_counts_responses {P : BitVec 16 → Prop} {s t : State} (hs : s.HostSends P) (h : step s = .next t) :
    t.responses.length + t.pending.length = s.responses.length + s.pending.length := by
  rcases step_next h with ⟨rest, hp, -⟩ | ⟨c, rest, hp, -, -, rfl⟩ | ⟨c, rest, hp, -, rfl⟩ | ⟨p, hp, hseq⟩
  · exact absurd hp hs.not_reset
  · obtain ⟨v, hv⟩ := commandEffect_one_response { s with pending := rest } c
    rw [hv, commandEffect_pending, hp]
    simp only [List.length_append, List.length_cons, List.length_nil]
    omega
  · rw [hp]
    split_ifs
    all_goals
      simp only [State.respondStatus_responses, State.respondStatus_pending, State.controlReset_responses,
        State.controlReset_pending, List.length_append, List.length_cons, List.length_nil]
      omega
  · obtain ⟨⟨hpending, -⟩, hresponses, -⟩ := sequencerStep_frame hseq
    rcases hp with ⟨rfl, -⟩ | hp
    · rw [hpending, hresponses]
    · obtain ⟨c, hc, -⟩ := hs.head hp
      cases hc

theorem run_counts_responses {P : BitVec 16 → Prop} {s t : State} {n : Nat} (hs : s.HostSends P)
    (h : run n s = .next t) :
    t.responses.length + t.pending.length = s.responses.length + s.pending.length := by
  obtain ⟨-, hkept⟩ := run_keeps
    (P := fun v => v.HostSends P ∧ v.responses.length + v.pending.length = s.responses.length + s.pending.length)
    (fun _ _ ⟨hsends, hcount⟩ hstep =>
      ⟨hsends.after_step hstep, (step_counts_responses hsends hstep).trans hcount⟩) ⟨hs, rfl⟩ h
  exact hkept

end Sys2Proof.Machine
end

section
/-! The running digest is that of the blocks handed over (44_driver_and_commands.md R160, R163). -/

namespace Sys2Proof.Machine

open Reference (digestAfter digestAfter_append)

theorem blocksHandedOver_append (ss ts : List State) :
    blocksHandedOver (ss ++ ts) = blocksHandedOver ss ++ blocksHandedOver ts := by
  simp [blocksHandedOver]

/-- The engine is not inside the processing of a block, and where the host can command it no padding is under way. -/
def State.BetweenBlocks (s : State) : Prop := s.PH = .pad ∨ s.ready = true ∧ s.PADST = .none

/-- `t` has the digest of `s`, and is outside the processing of a block or at its entry. -/
def State.KeepsDigest (s t : State) : Prop :=
  t.H = s.H ∧ (t.BetweenBlocks ∨ t.PH = .wload ∧ t.T = 0 ∧ t.PADST ≠ .first)

theorem State.BetweenBlocks.not_wload {s : State} (h : s.BetweenBlocks) : s.PH ≠ .wload := by
  intro hp
  rcases h with h | ⟨hr, -⟩
  · simp [hp] at h
  · simp [State.ready, Phase.ready, hp] at hr

theorem commandEffect_betweenBlocks {s : State} (hs : s.BetweenBlocks) (hr : s.ready = true) {c : BitVec 16}
    (hc : c ≠ 0x1000) : s.KeepsDigest (commandEffect s (decodeCommand c)) := by
  have hnone : s.PADST = .none := hs.elim (fun hpad => absurd hr (by simp [State.ready, Phase.ready, hpad])) And.right
  rcases commandEffect_cases s (decodeCommand c) with
    ⟨e, -, h⟩ | ⟨hd, -⟩ | ⟨b, -, hp, -, h⟩ | ⟨-, -, h⟩ | ⟨v, -, h⟩ | ⟨-, h⟩ | h
  case inr.inl => exact absurd ((decodeCommand_init_iff c).1 hd) hc
  all_goals rw [h]
  · exact ⟨rfl, .inl (.inr ⟨rfl, hnone⟩)⟩
  · by_cases h63 : s.N = 63#6
    · exact ⟨appendByte_H s b, .inr (by simp [h63, hnone])⟩
    · exact ⟨appendByte_H s b, .inl (.inr (by simp [State.ready, Phase.ready, h63, hp, hnone]))⟩
  · exact ⟨rfl, .inl (.inl rfl)⟩
  · exact ⟨rfl, .inl hs⟩
  · exact ⟨rfl, .inl (.inr ⟨rfl, rfl⟩)⟩
  · exact ⟨rfl, .inl hs⟩

theorem sequencerStep_betweenBlocks {s t : State} (hs : s.BetweenBlocks) (h : sequencerStep s = .next t) :
    s.KeepsDigest t := by
  rcases hs with hpad | ⟨hr, hnone⟩
  · rcases sequencerStep_next h with ⟨hr, rfl⟩ | ⟨-, -, -, rfl⟩ | ⟨-, -, -, rfl⟩ | ⟨hp, -⟩ | ⟨hp, -⟩ | ⟨hp, -⟩ |
      ⟨hp, -⟩ | ⟨hp, -⟩
    · exact ⟨rfl, .inl (.inl hpad)⟩
    · exact ⟨by simp, .inr ⟨rfl, rfl, by rw [padDone_PADST, padFirst_PADST]; split_ifs <;> decide⟩⟩
    · exact ⟨by simp, .inr ⟨rfl, rfl, by simp⟩⟩
    all_goals simp [hpad] at hp
  · rw [sequencerStep_ready hr] at h
    cases h
    exact ⟨rfl, .inl (.inr ⟨hr, hnone⟩)⟩

/-- A step outside the processing of a block leaves the digest alone, and stays outside or enters WLOAD. -/
theorem step_betweenBlocks {s t : State} (hs : s.BetweenBlocks) (hh : s.HostSends KeepsContextOpen)
    (h : step s = .next t) : s.KeepsDigest t := by
  rcases step_next h with ⟨rest, hp, -⟩ | ⟨c, rest, hp, hr, hf, rfl⟩ | ⟨c, rest, hp, hf, rfl⟩ | ⟨p, -, hseq⟩
  · exact absurd hp hh.not_reset
  · exact commandEffect_betweenBlocks (s := { s with pending := rest }) hs hr (hh.head_command hp).1
  · have hnone : s.PADST = .none := hs.elim (fun hpad => absurd hf (by simp [hpad])) And.right
    split_ifs
    · exact ⟨rfl, .inl (.inr ⟨rfl, rfl⟩)⟩
    · exact ⟨rfl, .inl (.inr ⟨(State.ready_iff _).2 (by simp [hf]), hnone⟩)⟩
  · exact sequencerStep_betweenBlocks (s := { s with pending := p }) hs hseq

/-- The 130 steps of a block: outside again, with the block compressed into the digest. -/
theorem run_block_digest {s : State} (hp : s.PH = .wload) (hT : s.T = 0) (hq : s.PADST ≠ .first)
    (hh : s.hostHolds = true) :
    ∃ t, RunHandsOver 130 s t [] ∧ t.BetweenBlocks ∧ t.H = digestAfter [s.B] s.H := by
  obtain ⟨u, hkeep, hrun⟩ := run_block hp hT hq hh
  obtain ⟨t, hrun', hH, -⟩ := (blockRunComputesCompress s hq hh hT).2 hp
  cases hrun'.symm.trans hrun.1
  refine ⟨_, hrun, ?_, hH⟩
  have hqu : u.PADST ≠ .first := by rwa [hkeep.PADST]
  cases hpadst : u.PADST with
  | first => exact absurd hpadst hqu
  | more => exact .inl (by rw [afterFeed_PH, hpadst]; rfl)
  | none | last => exact .inr (by simp [State.ready, Phase.ready, feedGoesTo, hpadst])

/-- A run into a ready phase compresses the blocks it hands over, in order, and writes nothing else to the digest. -/
theorem digest_of_run {n : Nat} {s t : State} (hs : s.BetweenBlocks) (hh : s.HostSends KeepsContextOpen)
    (h : run n s = .next t) (ht : t.ready = true) :
    t.H = digestAfter (blocksHandedOver (trace n s)) s.H := by
  induction n using Nat.strong_induction_on generalizing s with
  | _ n ih =>
    cases n with
    | zero => cases h; rfl
    | succ n =>
      obtain ⟨u, hstep, h⟩ := run_succ_next h
      have hhu := hh.after_step hstep
      obtain ⟨hH, hu | ⟨hp, hT, hq⟩⟩ := step_betweenBlocks hs hh hstep
      · have hout := blocksHandedOver_elsewhere (s := u) fun hp => absurd hp hu.not_wload
        rw [trace_succ n hstep, ← List.singleton_append, blocksHandedOver_append, hout, List.nil_append, ← hH]
        exact ih n (Nat.lt_succ_self n) hu hhu h
      · obtain ⟨v, ⟨hrun, hblocks⟩, hv, hHv⟩ := run_block_digest hp hT hq hhu.hostHolds
        have hn : 130 ≤ n := by
          by_contra hlt
          obtain ⟨w, ⟨hrun', -⟩, hw, -⟩ := run_atBlockStep ⟨hp, hT⟩ hhu.hostHolds (show n ≤ 129 by omega)
          cases hrun'.symm.trans h
          exact absurd ht (by simp [(State.busy_eq_true_iff _).1 hw.busy])
        obtain ⟨j, rfl⟩ := Nat.exists_eq_add_of_le hn
        rw [run_add 130 j hrun] at h
        rw [trace_succ _ hstep, trace_add 130 j hrun, ← List.singleton_append, blocksHandedOver_append,
          blocksHandedOver_append, hblocks, blocksHandedOver_entry hp hT, digestAfter_append, List.nil_append, ← hH,
          ← hHv]
        exact ih j (by omega) hv (hhu.after_run hrun) h

end Sys2Proof.Machine
end

section
/-! A transaction: INIT, the pushes and FINAL compute the digest, and the reads answer it (44_driver_and_commands.md
R163). -/

namespace Sys2Proof.Machine

open Reference (blocks hashWords serialize sequencerSteps)
open Assembler (hostEvents pushes hashCommands rddigCommands rdhexCommands)

/-! ### The host's events of a transaction -/

theorem hostEvents_append (is js : List Instr) : hostEvents (is ++ js) = hostEvents is ++ hostEvents js := by
  simp [hostEvents]

theorem hostEvents_length {is : List Instr} (h : ∀ i ∈ is, i.isCommand = true) :
    (hostEvents is).length = is.length := by
  rw [hostEvents, List.length_map, List.filterMap_length_eq_length]
  intro i hi
  obtain ⟨c, hc⟩ := exists_commandWord (h i hi)
  rw [(commandWord?_eq_some_iff i c).2 hc]
  rfl

/-! ### INIT, the pushes, FINAL -/

section
variable {s : State} {m : List Byte} {after : List Instr}

/-- After INIT no byte is taken in, and the digest is the initial one (R151). -/
theorem step_init (hr : s.ready = true) (hf : s.PH ≠ .fault)
    (hp : s.pending = hostEvents (hashCommands m ++ after)) :
    ∃ t, step s = .next t ∧ t.Absorbed m after 0 ∧ t.H = Vector.ofFn Config.IV ∧
      t.responses.length = s.responses.length + 1 := by
  have hpending : s.pending = .command 0x1000 :: hostEvents (pushes m ++ .final :: after) := by
    rw [hp, hashCommands, List.append_assoc, List.append_assoc]
    rfl
  refine ⟨_, step_transfer hr hf hpending, ⟨rfl, rfl, rfl, rfl, fun i _ hi => absurd hi (Nat.not_lt_zero i), rfl⟩, rfl,
    ?_⟩
  exact List.length_append

/-- The events still to come once INIT is taken neither open nor reset a context. -/
theorem hostSends_absorbed (h : s.Absorbed m after 0) (hi : Instr.init ∉ after) (hs : Instr.srst ∉ after) :
    s.HostSends KeepsContextOpen :=
  hostSends_hostEvents h.host (by simp [pushes, hi]) (by simp [pushes, hs])

/-- A transaction from the state INIT leaves: DONE, the digest words of the message, and a response for each command. -/
theorem run_absorbed (h : s.Absorbed m after 0) (hm : m.length < 2 ^ 61) (hIV : s.H = Vector.ofFn Config.IV)
    (hi : Instr.init ∉ after) (hs : Instr.srst ∉ after) :
    ∃ t, run (m.length + 1 + sequencerSteps m.length) s = .next t ∧ t.PH = .done ∧ t.pending = hostEvents after ∧
      t.H = hashWords m ∧ t.responses.length = s.responses.length + m.length + 1 := by
  have hsends := hostSends_absorbed h hi hs
  obtain ⟨t, hdone, hpending, hrun, hblocks⟩ := run_message h hm
  refine ⟨t, hrun, hdone, hpending, ?digest, ?count⟩
  case digest =>
    have hbetween : s.BetweenBlocks := .inr ⟨s.ready_iff.2 (by simp [h.phase]), h.padding⟩
    rw [digest_of_run hbetween hsends hrun (t.ready_iff.2 (by simp [hdone])), hblocks, hIV, hashWords]
  case count =>
    have hcount := run_counts_responses hsends hrun
    have hcommands : ∀ i ∈ pushes m ++ [.final], i.isCommand = true := by
      simp [pushes, or_imp, forall_and, Instr.isCommand]
    have hlength : s.pending.length = m.length + 1 + (hostEvents after).length := by
      rw [h.host, List.drop_zero, List.append_cons, hostEvents_append, List.length_append,
        hostEvents_length hcommands, List.length_append, pushes, List.length_map]
      rfl
    rw [hpending] at hcount
    omega

end

/-! ### The reads (R154, R155) -/

/-- A list of commands that all, in DONE, respond with a value of the digest `H` and write nothing. -/
theorem run_reads {α : Type} {mk : α → Instr} {value : α → Word} {H : Vector Word 8}
    (hread : ∀ a s, s.PH = .done → s.H = H → exec (mk a) s = .next (s.respond (value a)))
    (hmk : ∀ a, (mk a).isCommand = true) (as : List α) {is : List Instr} {s : State} (hp : s.PH = .done) (hH : s.H = H)
    (hpending : s.pending = hostEvents (as.map mk ++ is)) :
    run as.length s = .next { s with pending := hostEvents is, responses := s.responses ++ as.map value } := by
  induction as generalizing s with
  | nil => rw [List.map_nil, List.append_nil, ← show s.pending = hostEvents is from hpending]; rfl
  | cons a as ih =>
    obtain ⟨c, hc⟩ := exists_commandWord (hmk a)
    rw [List.map_cons, List.cons_append, hostEvents_cons hc] at hpending
    have hstep := stepRunsTheTransferredCommand s c _ (mk a) (s.ready_iff.2 (by simp [hp])) hpending hc
    rw [hread a { s with pending := hostEvents (as.map mk ++ is) } hp hH] at hstep
    have hrest := ih (s := State.respond { s with pending := hostEvents (as.map mk ++ is) } (value a)) hp hH rfl
    rw [List.length_cons, run_succ _ hstep, hrest]
    simp [State.respond]

/-- RDDIG's answers are the digest words. -/
theorem map_digestWord_eq_toList (H : Vector Word 8) :
    (List.range 8).map (fun i => digestWord H (BitVec.ofNat 3 i)) = H.toList := by
  refine List.ext_getElem (by simp) fun i hi _ => ?_
  have h8 : i < 8 := by simpa using hi
  simp [digestWord, Nat.mod_eq_of_lt h8]

/-- RDHEX's answers are the bytes of the serialized digest. -/
theorem map_digestByte_eq_toList (H : Vector Word 8) :
    (List.range 32).map (fun j => (digestByte H (BitVec.ofNat 5 j)).zeroExtend 32) =
      (serialize H).toList.map (·.zeroExtend 32) := by
  refine List.ext_getElem (by simp) fun j hj _ => ?_
  have h32 : j < 32 := by simpa using hj
  simp [digestByte_eq_serialize, Nat.mod_eq_of_lt h32]

/-- The 40 reads of RDDIG and RDHEX answer the digest by word and by byte. -/
theorem run_rddig_rdhex {s : State} (hp : s.PH = .done)
    (hpending : s.pending = hostEvents (rddigCommands ++ rdhexCommands)) :
    run 40 s = .next { s with
      pending := []
      responses := s.responses ++ s.H.toList ++ (serialize s.H).toList.map (·.zeroExtend 32) } := by
  have hwords := run_reads (H := s.H) (mk := fun i => .rdw (BitVec.ofNat 3 i))
    (value := fun i => digestWord s.H (BitVec.ofNat 3 i)) (fun _ _ hu hH => hH ▸ (exec_digestRead rfl rfl).1 hu)
    (fun _ => rfl) (List.range 8) hp rfl hpending
  rw [map_digestWord_eq_toList] at hwords
  have hbytes := run_reads (H := s.H) (is := []) (mk := fun j => .rdb (BitVec.ofNat 5 j))
    (s := { s with pending := hostEvents rdhexCommands, responses := s.responses ++ s.H.toList })
    (value := fun j => (digestByte s.H (BitVec.ofNat 5 j)).zeroExtend 32)
    (fun _ _ hu hH => hH ▸ (exec_digestRead rfl rfl).1 hu) (fun _ => rfl) (List.range 32) hp rfl
    (by rw [List.append_nil]; rfl)
  rw [map_digestByte_eq_toList] at hbytes
  rw [run_add 8 32 hwords]
  exact hbytes

/-- Settles O48: `run_absorbed` behind INIT's step, then the reads; a run that ends in DONE was never in FAULT. -/
theorem transactionComputesTheHash : Obligations.TransactionComputesTheHash := by
  intro s m n hr hf hm hpending hn
  rw [transaction, ← hostEvents_append] at hpending
  obtain ⟨u, hinit, habsorbed, hIV, hone⟩ := step_init hr hf hpending
  have hnoInit : Instr.init ∉ rddigCommands ++ rdhexCommands := by simp [rddigCommands, rdhexCommands]
  have hnoSrst : Instr.srst ∉ rddigCommands ++ rdhexCommands := by simp [rddigCommands, rdhexCommands]
  obtain ⟨t, hrun, hdone, hreads, hH, hcount⟩ := run_absorbed habsorbed hm hIV hnoInit hnoSrst
  have hrunAll : run n s = .next t := by
    rw [hn, show m.length + 2 + sequencerSteps m.length = m.length + 1 + sequencerSteps m.length + 1 by omega,
      run_succ _ hinit, hrun]
  have hrunReads := (run_add n 40 hrunAll).trans (run_rddig_rdhex hdone hreads)
  refine ⟨⟨t, hrunAll, hdone, hH⟩, fun k hk => ?noFault, _, hrunReads, hdone, rfl, serialize (hashWords m), ?hash, rfl,
    ?answers⟩
  case noFault =>
    cases k with
    | zero => exact ⟨s, rfl, hf⟩
    | succ k =>
      obtain ⟨j, hj⟩ : ∃ j, n + 40 = j + 1 := ⟨n + 39, rfl⟩
      rw [hj, run_succ j hinit] at hrunReads
      rw [run_succ k hinit]
      exact run_without_fault (hostSends_absorbed habsorbed hnoInit hnoSrst) hrunReads (by simp [hdone]) (by omega)
  case hash => rw [Reference.hash, if_pos (by simpa [Reference.inDomain] using hm)]
  case answers =>
    rw [List.append_assoc, hH]
    exact List.drop_left' (by omega)

end Sys2Proof.Machine
end

section
/-! The engine does not see waits and STAT commands between the commands (44_driver_and_commands.md R164): a run with
them catches up with the run without them, step by step. -/

namespace Sys2Proof.Machine

open Assembler (hostEvents hashCommands)

/-! ### The engine behind another host -/

/-- The engine of `s` with other events to come and other responses given. -/
def State.facing (s : State) (p : List HostEvent) (q : List Word) : State := { s with pending := p, responses := q }

@[simp] theorem State.facing_PH (s : State) (p : List HostEvent) (q : List Word) : (s.facing p q).PH = s.PH := rfl
@[simp] theorem State.facing_T (s : State) (p : List HostEvent) (q : List Word) : (s.facing p q).T = s.T := rfl

section
variable {s t : State} (p : List HostEvent) (q : List Word)

theorem padFirst_facing (s : State) : padFirst (s.facing p q) = (padFirst s).facing p q := by
  unfold padFirst
  dsimp only [State.facing]
  split <;> rfl

theorem appendByte_facing (s : State) (d : Byte) : appendByte (s.facing p q) d = (appendByte s d).facing p q := by
  unfold appendByte
  by_cases h63 : s.N = 63
  · rw [if_pos h63, if_pos (show (s.facing p q).N = 63 from h63)]
    rfl
  · rw [if_neg h63, if_neg (show ¬(s.facing p q).N = 63 from h63)]
    rfl

/-- No micro-operation looks at the host's side. -/
theorem sequencerStep_facing (h : sequencerStep s = .next t) :
    sequencerStep (s.facing p q) = .next (t.facing p q) := by
  rcases sequencerStep_next h with ⟨hr, rfl⟩ | ⟨hp, hT, hq, rfl⟩ | ⟨hp, hT, hq, rfl⟩ | ⟨hp, hT, rfl⟩ | ⟨hp, hT, rfl⟩ |
    ⟨hp, hT, rfl⟩ | ⟨hp, rfl⟩ | ⟨hp, hT, hq, rfl⟩
  case inl => exact sequencerStep_ready (s := t.facing p q) hr
  all_goals rw [sequencerStep_eq, State.facing_PH, hp]
  · rw [State.facing_T, hT, execPadb_first (s := s.facing p q) hq, padFirst_facing]
    rfl
  · rw [State.facing_T, hT, execPadb_more (s := s.facing p q) hq]
    rfl
  · exact execWld_eq (s := s.facing p q) hT
  · exact execWex_eq (s := s.facing p q) hT
  · rw [State.facing_T, hT]
    exact execRld_eq (s.facing p q)
  · exact execRnd_eq s.T (s.facing p q)
  · rw [State.facing_T, hT]
    exact execFeed_eq (s := s.facing p q) hq

/-- A choice that the host's side does not touch. -/
theorem exists_facing_ite {c c' : Prop} [Decidable c] [Decidable c'] (hc : c ↔ c') {u v u' v' : State}
    (hu : ∃ q', u = u'.facing p q') (hv : ∃ q', v = v'.facing p q') :
    ∃ q', (if c then u else v) = (if c' then u' else v').facing p q' := by
  by_cases h : c
  · rwa [if_pos h, if_pos (hc.1 h)]
  · rwa [if_neg h, if_neg (mt hc.2 h)]

/-- A command does the same to the engine, whatever stands in the host's events and responses. -/
theorem commandEffect_facing (s : State) (d : Except Reject Instr) :
    ∃ q', commandEffect (s.facing p q) d = (commandEffect s d).facing p q' := by
  cases d with
  | error e => exact ⟨_, rfl⟩
  | ok i =>
    cases i with
    | init | stat | srst | padb _ | wld _ | wex _ | rld _ | rnd _ | feed _ => exact ⟨_, rfl⟩
    | pushb d =>
      exact exists_facing_ite p .rfl ⟨_, rfl⟩
        (exists_facing_ite p .rfl ⟨_, rfl⟩ ⟨_, by rw [appendByte_facing]; rfl⟩)
    | final | rdw _ | rdb _ => exact exists_facing_ite p .rfl ⟨_, rfl⟩ ⟨_, rfl⟩

/-- The same for a word's transfer to a ready engine, in FAULT or not. -/
theorem transfer_facing (hr : s.ready = true) {c : BitVec 16} (h : transfer c s = .next t) :
    ∃ q', transfer c (s.facing p q) = .next (t.facing p q') := by
  by_cases hf : s.PH = .fault
  · rw [transfer_fault hf] at h
    rw [transfer_fault (s := s.facing p q) hf]
    cases h
    split_ifs <;> exact ⟨_, rfl⟩
  · rw [transfer_ready hr hf] at h
    rw [transfer_ready (s := s.facing p q) hr hf]
    cases h
    obtain ⟨q', hq'⟩ := commandEffect_facing p q s (decodeCommand c)
    exact ⟨q', congrArg _ hq'⟩

end

/-! ### Catching up -/

/-- The engine of `s` is that of `t`, and the host of `s` sends what the host of `t` sends, with waits and STAT commands
between. -/
def State.Trails (s t : State) : Prop := ∃ p q, s = t.facing p q ∧ p.filter HostEvent.matters = t.pending

/-- A ready engine takes in waits and STAT commands without a change. -/
theorem run_immaterial {s : State} (hr : s.ready = true) {l rest : List HostEvent} (hp : s.pending = l ++ rest)
    (hl : ∀ e ∈ l, ¬e.matters = true) : ∃ q, run l.length s = .next (s.facing rest q) := by
  induction l generalizing s with
  | nil => exact ⟨s.responses, by rw [← show s.pending = rest from hp]; rfl⟩
  | cons e l ih =>
    rw [List.cons_append] at hp
    have hstep : ∃ q, step s = .next (s.facing (l ++ rest) q) := by
      have he := hl e List.mem_cons_self
      cases e with
      | idle => exact ⟨_, (aReadyEngineWaits s hr).2 _ hp⟩
      | command c =>
        have hc : c = 0x6000 := by simpa [HostEvent.matters] using he
        rw [hc] at hp
        have hstat := exec_stat_ready (s := { s with pending := l ++ rest }) hr
        exact ⟨_, (stepRunsTheTransferredCommand s _ _ .stat hr hp rfl).trans hstat⟩
      | reset => exact absurd rfl he
    obtain ⟨q, hstep⟩ := hstep
    obtain ⟨q', hrun⟩ := ih (s := s.facing (l ++ rest) q) hr rfl fun e he => hl e (List.mem_cons_of_mem _ he)
    exact ⟨q', by rw [List.length_cons, run_succ _ hstep, hrun]; rfl⟩

section
variable {s t t' : State} {P : BitVec 16 → Prop}

/-- While the engine is busy both run the sequencer, the trailing one perhaps with a wait taken. -/
theorem step_trails_busy (h : s.Trails t) (hb : t.busy = true) (hs : t.HostSends P) (ht : step t = .next t') :
    ∃ s', step s = .next s' ∧ s'.Trails t' := by
  obtain ⟨p, q, rfl, hp⟩ := h
  rw [step_busy hb hs.hostHolds] at ht
  obtain ⟨⟨hpending, -⟩, -⟩ := sequencerStep_frame ht
  rw [← hpending] at hp
  cases p with
  | nil => exact ⟨_, (step_nil rfl).trans (sequencerStep_facing [] q ht), _, _, rfl, hp⟩
  | cons e p =>
    cases e with
    | idle =>
      have hseq := sequencerStep_facing p q ht
      exact ⟨_, (step_idle rfl).trans hseq, _, _, rfl, hp⟩
    | command c =>
      have hhold := step_busy (s := t.facing (.command c :: p) q) hb (hostHolds_command rfl)
      exact ⟨_, hhold.trans (sequencerStep_facing _ q ht), _, _, rfl, hp⟩
    | reset => exact absurd (hpending.symm.trans hp.symm) hs.not_reset

/-- A ready engine waits for a command; the trailing one takes it behind the waits and STAT commands in front of it. -/
theorem run_trails_ready (h : s.Trails t) (hr : t.ready = true) (hs : t.HostSends P) (ht : step t = .next t') :
    ∃ n s', run n s = .next s' ∧ s'.Trails t' := by
  cases hpending : t.pending with
  | nil =>
    rw [(aReadyEngineWaits t hr).1 hpending] at ht
    cases ht
    exact ⟨0, s, rfl, h⟩
  | cons e rest =>
    obtain ⟨c, rfl, -⟩ := hs.head hpending
    obtain ⟨p, q, rfl, hp⟩ := h
    obtain ⟨l, l', rfl, hl, -, hrest⟩ := List.filter_eq_cons_iff.1 (hp.trans hpending)
    obtain ⟨q₁, hwaits⟩ := run_immaterial (s := t.facing (l ++ .command c :: l') q) hr rfl hl
    obtain ⟨u, hu, hpending', -⟩ := everyTransferGivesOneResponse t c rest hr hpending
    cases hu.symm.trans ht
    rw [step_command hpending, if_pos hr] at ht
    obtain ⟨q₂, htransfer⟩ := transfer_facing (s := { t with pending := rest }) l' q₁ hr ht
    have hstep : step (t.facing (.command c :: l') q₁) = .next (t'.facing l' q₂) := by
      rw [step_command rfl, if_pos (show State.ready (t.facing _ q₁) = true from hr)]
      exact htransfer
    exact ⟨l.length + 1, _, (run_add _ 1 hwaits).trans (run_succ 0 hstep), _, _, rfl, hrest.trans hpending'.symm⟩

/-- A run is caught up with, whatever waits and STAT commands stand between its commands. -/
theorem run_trails {n : Nat} (h : s.Trails t) (hs : t.HostSends P) (ht : run n t = .next t') :
    ∃ k s', run k s = .next s' ∧ s'.Trails t' := by
  induction n generalizing s t with
  | zero => cases ht; exact ⟨0, s, rfl, h⟩
  | succ n ih =>
    obtain ⟨u, hstep, ht⟩ := run_succ_next ht
    have hone : ∃ k v, run k s = .next v ∧ v.Trails u := by
      by_cases hr : t.ready = true
      · exact run_trails_ready h hr hs hstep
      · obtain ⟨v, hv, htrails⟩ := step_trails_busy h (by simpa [State.busy] using hr) hs hstep
        exact ⟨1, v, run_succ 0 hv, htrails⟩
    obtain ⟨j, v, hv, htrails⟩ := hone
    obtain ⟨k, w, hw, htrails'⟩ := ih htrails (hs.after_step hstep) ht
    exact ⟨j + k, w, by rw [run_add j k hv, hw], htrails'⟩

end

/-- Settles O49: the transaction without waits and STAT commands ends in DONE with the digest; the run with them catches
up with it and takes in the rest. -/
theorem digestIgnoresHistoryWaitsAndStatus : Obligations.DigestIgnoresHistoryWaitsAndStatus := by
  intro s m hr hf hm hp
  have htransaction : transaction m = hostEvents (hashCommands m ++ []) := by rw [List.append_nil]; rfl
  obtain ⟨u, hinit, habsorbed, hIV, -⟩ := step_init (s := s.facing (transaction m) s.responses) hr hf htransaction
  obtain ⟨t, hrun, hdone, hpending, hH, -⟩ := run_absorbed habsorbed hm hIV List.not_mem_nil List.not_mem_nil
  have hsends : (s.facing (transaction m) s.responses).HostSends fun _ => True := by
    intro e he
    obtain ⟨c, -, rfl⟩ := List.mem_map.1 he
    exact ⟨c, rfl, trivial⟩
  obtain ⟨j, v, hcatch, p, q, rfl, hrest⟩ :=
    run_trails (s := s) (t := s.facing (transaction m) s.responses) ⟨s.pending, s.responses, rfl, hp⟩ hsends
      ((run_succ _ hinit).trans hrun)
  have hrest' := List.filter_eq_nil_iff.1 (hrest.trans hpending)
  obtain ⟨q', hdrain⟩ := run_immaterial (s := t.facing p q) (rest := []) (t.ready_iff.2 (by simp [hdone]))
    (List.append_nil p).symm hrest'
  exact ⟨j + p.length, _, (run_add j _ hcatch).trans hdrain, rfl, hdone, hH⟩

end Sys2Proof.Machine
end

section
/-! A consistent state always has a next step (60_exceptions.md R192; 44_driver_and_commands.md R156). -/

namespace Sys2Proof.Machine

/-- The step indices and the padding progress that a consistent state has are those its micro-operation takes. -/
theorem sequencerStep_total {s : State} (hc : s.consistent = true) : ∃ t, sequencerStep s = .next t := by
  obtain ⟨hT, hq, -⟩ := s.consistent_iff.1 hc
  cases hp : s.PH <;> simp only [hp, Phase.usesIndex, Phase.allowsPadding, decide_eq_true_eq, bne_iff_ne] at hT hq
  case idle | absorb | done | fault => exact ⟨s, sequencerStep_ready (s.ready_iff.2 (by simp [hp]))⟩
  all_goals simp only [sequencerStep_eq, hp]
  case pad =>
    rw [hT]
    rcases hq with hq | hq
    · exact ⟨_, execPadb_first hq⟩
    · exact ⟨_, execPadb_more hq⟩
  case wload => exact ⟨_, execWld_eq hT⟩
  case wexp => exact ⟨_, execWex_eq hT⟩
  case rload => rw [hT]; exact ⟨_, execRld_eq s⟩
  case round => exact ⟨_, execRnd_eq s.T s⟩
  case feed => rw [hT]; exact ⟨_, execFeed_eq hq⟩

/-- A transfer always answers a next state, in FAULT as outside it (R192). -/
theorem transfer_total {s : State} (hr : s.ready = true) (c : BitVec 16) : ∃ t, transfer c s = .next t := by
  by_cases hf : s.PH = .fault
  · exact ⟨_, transfer_fault hf c⟩
  · exact ⟨_, transfer_ready hr hf c⟩

theorem step_total {s : State} (hc : s.consistent = true) : ∃ t, step s = .next t := by
  cases hp : s.pending with
  | nil =>
    rw [step_nil hp]
    exact sequencerStep_total hc
  | cons e rest =>
    cases e with
    | reset => exact ⟨_, step_reset hp⟩
    | idle =>
      rw [step_idle hp]
      exact sequencerStep_total (s := { s with pending := rest }) hc
    | command c =>
      rw [step_command hp]
      split_ifs with hr
      · exact transfer_total (s := { s with pending := rest }) hr c
      · exact sequencerStep_total hc

/-- Settles O31, by induction on the number of steps: `step_total` gives the next step, and O30 the consistent state it
answers. -/
theorem noRunOfAConsistentStateStops : Obligations.NoRunOfAConsistentStateStops := by
  intro n
  induction n with
  | zero => exact fun s hc => ⟨s, run_zero s, hc⟩
  | succ n ih =>
    intro s hc
    obtain ⟨u, hstep⟩ := step_total hc
    obtain ⟨t, hrun, ht⟩ := ih u (everyStepKeepsTheStateConsistent s u hc hstep)
    exact ⟨t, (run_succ n hstep).trans hrun, ht⟩

end Sys2Proof.Machine
end

section
/-! The fault a transfer raises, and the phase FAULT (60_exceptions.md R180 to R187). -/

namespace Sys2Proof.Machine

/-! ### A transfer outside FAULT (R184, R185) -/

/-- `faultOf` names the fault a command's effect raises; where it names none, the effect neither enters FAULT nor, but
for SRST, writes `ECODE`. -/
theorem commandEffect_faultOf (s : State) (c : BitVec 16) :
    faultOf c s ≠ .enone ∧ commandEffect s (decodeCommand c) = s.raiseFault (faultOf c s) ∨
    faultOf c s = .enone ∧ (s.PH ≠ .fault → (commandEffect s (decodeCommand c)).PH ≠ .fault) ∧
      (c ≠ 0xF000 → (commandEffect s (decodeCommand c)).ECODE = s.ECODE) := by
  unfold faultOf
  cases hd : decodeCommand c with
  | error e => exact .inl ⟨nofun, rfl⟩
  | ok i =>
    cases i with
    | init => exact .inr ⟨rfl, fun _ => by simp [commandEffect], fun _ => rfl⟩
    | pushb b =>
      by_cases hp : s.PH = .absorb
      · by_cases hmax : s.LEN = lenMax
        · exact .inl (by simp [commandEffect, hp, hmax])
        · have hphase : (if s.N = 63 then Phase.wload else Phase.absorb) ≠ .fault := by split_ifs <;> decide
          exact .inr (by simpa [commandEffect, hp, hmax] using hphase)
      · exact .inl (by simp [commandEffect, hp])
    | final =>
      by_cases hp : s.PH = .absorb
      · exact .inr (by simp [commandEffect, hp])
      · exact .inl (by simp [commandEffect, hp])
    | rdw _ | rdb _ =>
      by_cases hp : s.PH = .done
      · exact .inr (by simp [commandEffect, hp])
      · exact .inl (by simp [commandEffect, hp])
    | srst =>
      exact .inr ⟨rfl, fun _ => by simp [commandEffect], fun hc => absurd ((decodeCommand_srst_iff c).1 hd) hc⟩
    | stat | padb _ | wld _ | wex _ | rld _ | rnd _ | feed _ => exact .inr ⟨rfl, id, fun _ => rfl⟩

/-- Settles O51: in FAULT by `step_transfer_fault`, outside it by `commandEffect_faultOf`. -/
theorem transferRaisesTheFaultOfItsPriority : Obligations.TransferRaisesTheFaultOfItsPriority := by
  intro s c rest hr hp
  by_cases hf : s.PH = .fault
  · refine ⟨_, step_transfer_fault hf hp, fun _ hc => ?_, fun h => absurd hf h, fun h => absurd hf h⟩
    rw [if_neg hc]
    exact ⟨rfl, rfl, rfl, rfl, rfl⟩
  · refine ⟨_, step_transfer hr hf hp, fun h => absurd h hf, fun _ hnone => ?none, fun _ hraised => ?raised⟩
    all_goals obtain ⟨h, heffect⟩ | ⟨h, hphase, hecode⟩ := commandEffect_faultOf { s with pending := rest } c
    case none.inl => exact absurd hnone h
    case none.inr => exact ⟨hphase hf, hecode⟩
    case raised.inl =>
      rw [heffect]
      exact raiseFault_entersFault { s with pending := rest } (faultOf c s)
    case raised.inr => exact absurd h hraised

/-- Settles O52: a reset goes to IDLE, and the sequencer enters FAULT from no busy phase and leaves a ready phase as it
is; so the step was a transfer, and `commandEffect_faultOf` names its fault. -/
theorem onlyTransfersRaiseFaults : Obligations.OnlyTransfersRaiseFaults := by
  intro s t hf h ht
  rcases step_next h with ⟨rest, -, rfl⟩ | ⟨c, rest, hp, hr, -, rfl⟩ | ⟨c, rest, -, hfault, -⟩ | ⟨p, -, hseq⟩
  · cases ht
  · obtain ⟨hraised, heffect⟩ | ⟨-, hphase, -⟩ := commandEffect_faultOf { s with pending := rest } c
    · exact ⟨hr, c, rest, hp, hraised, by rw [heffect]; rfl⟩
    · exact absurd ht (hphase hf)
  · exact absurd hfault hf
  · have hr : ({ s with pending := p } : State).ready = true :=
      Phase.ready_of_goesTo_fault (ht ▸ sequencerStep_goesTo hseq)
    rw [sequencerStep_ready hr] at hseq
    cases hseq
    exact absurd ht hf

/-! ### In FAULT (R186, R187) -/

/-- Settles O53. -/
theorem faultPhaseDiscardsAllButSrst : Obligations.FaultPhaseDiscardsAllButSrst := by
  intro s c rest hf hp
  refine ⟨fun hc => ?discarded, fun hc => ⟨_, step_transfer_fault hf hp, ?reset⟩⟩
  case discarded =>
    rw [step_transfer_fault hf hp, if_neg hc]
    rfl
  case reset =>
    rw [if_pos hc]
    refine ⟨⟨rfl, rfl, rfl, rfl, rfl, rfl, rfl, rfl, rfl, rfl⟩, ?_, rfl⟩
    rw [State.respondStatus_responses, controlReset_status, State.controlReset_responses]

/-- Settles O54: a reset and SRST lead to IDLE; a discarded word and a wait change the host's side alone. -/
theorem faultStaysUntilReset : Obligations.FaultStaysUntilReset := by
  intro s t hf h
  rcases step_next h with ⟨rest, hp, rfl⟩ | ⟨c, rest, -, -, hnf, -⟩ | ⟨c, rest, hp, -, rfl⟩ | ⟨p, -, hseq⟩
  · exact .inr ⟨rfl, rfl, .inr ⟨rest, hp⟩⟩
  · exact absurd hf hnf
  · split_ifs with hc
    · exact .inr ⟨rfl, rfl, .inl ⟨rest, hc ▸ hp⟩⟩
    · exact .inl ⟨⟨rfl, rfl, rfl, rfl, rfl, rfl⟩, rfl, rfl, rfl, rfl⟩
  · have hr : ({ s with pending := p } : State).ready = true := (State.ready_iff _).2 (by simp [hf])
    rw [sequencerStep_ready hr] at hseq
    cases hseq
    exact .inl ⟨⟨rfl, rfl, rfl, rfl, rfl, rfl⟩, rfl, rfl, rfl, rfl⟩

end Sys2Proof.Machine
end

section
/-! What a reset leaves, what the host sees after it, and how long the digest stays (70_reset_and_hazards.md R200, R201,
R206). -/

namespace Sys2Proof.Machine

/-! ### The hardware reset (R200) -/

theorem hardwareReset_status (s : State) : s.hardwareReset.status = 0x00000000 := controlReset_status s

/-- Settles O55: a reset event comes before the sequencer and before a held command, so `step_reset` has no premise on
the phase. -/
theorem hardwareResetActsInAnyPhase : Obligations.HardwareResetActsInAnyPhase := by
  intro s rest hp
  exact ⟨_, step_reset hp, rfl, rfl, rfl, rfl, rfl, rfl, hardwareReset_status _, rfl, rfl, rfl, rfl, rfl⟩

/-- The number of resets alone determines the data that a hardware reset leaves (log 1). -/
theorem hardwareReset_sameData {s t : State} (h : s.resets = t.resets) :
    s.hardwareReset.sameData t.hardwareReset := by
  simp [State.sameData, h]

/-- The control state that a hardware reset leaves is always the same. -/
theorem hardwareReset_sameControl (s t : State) : s.hardwareReset.sameControl t.hardwareReset :=
  ⟨rfl, rfl, rfl, rfl, rfl, rfl⟩

/-- Settles O56. -/
theorem hardwareResetLeavesNoOldData : Obligations.HardwareResetLeavesNoOldData := by
  intro s t s' t' rest rest' hs ht hresets hstep hstep'
  rw [step_reset hs] at hstep
  rw [step_reset ht] at hstep'
  cases hstep
  cases hstep'
  exact ⟨hardwareReset_sameData (s := { s with pending := rest }) (t := { t with pending := rest' }) hresets,
    hardwareReset_sameControl _ _⟩

/-! ### After a reset of either kind (R201, R25) -/

/-- Runs of every length keep the agreement: `step_total` gives the next step of the one, and `step_agrees` a step of
the other to a state that agrees with it. -/
theorem run_agrees (n : Nat) {s t : State} (hc : s.consistent = true) (h : s.agrees t) :
    ∃ s' t', run n s = .next s' ∧ run n t = .next t' ∧ s'.agrees t' := by
  induction n generalizing s t with
  | zero => exact ⟨s, t, run_zero s, run_zero t, h⟩
  | succ n ih =>
    obtain ⟨u, hs⟩ := step_total hc
    obtain ⟨v, ht, huv⟩ := step_agrees hc h hs
    obtain ⟨s', t', hrun, hrun', h'⟩ := ih (everyStepKeepsTheStateConsistent s u hc hs) huv
    exact ⟨s', t', (run_succ n hs).trans hrun, (run_succ n ht).trans hrun', h'⟩

/-- Settles O57: the reset control state is consistent, and in IDLE no data is live, so the two states agree whatever
data they hold; `run_agrees` carries that along the run. -/
theorem resetsLookAlikeToTheHost : Obligations.ResetsLookAlikeToTheHost := by
  intro n s t hPH hT hN hLEN hPADST hECODE hctl hpend hresp
  have hc : s.consistent = true := (State.consistent_idle hPH).2 ⟨hT, hPADST, hECODE, hN, hLEN⟩
  obtain ⟨s', t', hrun, hrun', hctl', -, -, hresp'⟩ := run_agrees n hc ⟨hctl, State.sameLive_idle hPH, hpend, hresp⟩
  exact ⟨s', t', hrun, hrun', hctl', hresp'⟩

/-! ### The digest in DONE (R205, R206) -/

/-- In DONE a word that raises no fault is INIT, SRST, or one that neither leaves the phase nor writes the digest. -/
theorem commandEffect_done {s : State} (hp : s.PH = .done) {c : BitVec 16} (hnone : faultOf c s = .enone) :
    c = 0x1000 ∨ c = 0xF000 ∨
      (commandEffect s (decodeCommand c)).PH = .done ∧ (commandEffect s (decodeCommand c)).H = s.H := by
  have hnofault : (commandEffect s (decodeCommand c)).PH ≠ .fault := by
    obtain ⟨hraised, -⟩ | ⟨-, hphase, -⟩ := commandEffect_faultOf s c
    · exact absurd hnone hraised
    · exact hphase (by simp [hp])
  rcases commandEffect_cases s (decodeCommand c) with
    ⟨e, -, h⟩ | ⟨hd, -⟩ | ⟨b, -, habsorb, -⟩ | ⟨-, habsorb, -⟩ | ⟨v, -, h⟩ | ⟨hd, -⟩ | h
  · exact absurd (by rw [h]; rfl) hnofault
  · exact .inl ((decodeCommand_init_iff c).1 hd)
  · exact absurd (hp.symm.trans habsorb) nofun
  · exact absurd (hp.symm.trans habsorb) nofun
  · exact .inr (.inr (by rw [h]; exact ⟨hp, rfl⟩))
  · exact .inr (.inl ((decodeCommand_srst_iff c).1 hd))
  · exact .inr (.inr (by rw [h]; exact ⟨hp, rfl⟩))

/-- Settles O50: a wait in DONE changes the host's side alone; a transferred word is named by `commandEffect_done`. -/
theorem digestStaysUntilItIsGivenUp : Obligations.DigestStaysUntilItIsGivenUp := by
  intro s t hdone h
  rcases step_next h with ⟨rest, hp, -⟩ | ⟨c, rest, hp, -, -, rfl⟩ | ⟨c, rest, -, hfault, -⟩ | ⟨p, -, hseq⟩
  · exact .inr (.inr ⟨rest, hp⟩)
  · by_cases hnone : faultOf c s = .enone
    · obtain hinit | hsrst | hkept := commandEffect_done (s := { s with pending := rest }) hdone hnone
      · exact .inr (.inl ⟨c, rest, hp, .inl hinit⟩)
      · exact .inr (.inl ⟨c, rest, hp, .inr (.inl hsrst)⟩)
      · exact .inl hkept
    · exact .inr (.inl ⟨c, rest, hp, .inr (.inr hnone)⟩)
  · exact absurd (hdone.symm.trans hfault) nofun
  · have hr : ({ s with pending := p } : State).ready = true := (State.ready_iff _).2 (by simp [hdone])
    rw [sequencerStep_ready hr] at hseq
    cases hseq
    exact .inl ⟨hdone, rfl⟩

end Sys2Proof.Machine
end
